-- ==== Sys2Proof/Word.lean ====
section
/-! DEFINITION. The value types of the block: a byte of M, the 64-bit command word, and the widths the
register map of 10_state.md rule R23 and the field list of 40_fields_crc.md rule R101 use. -/

namespace Sys2Proof

/-- One byte of M (20_memory.md rule R21). -/
abbrev Byte := BitVec 8

/-- One command word, as written to CMD (30_encoding.md rule R70). -/
abbrev CommandWord := BitVec 64

/-- A host-port register number (10_state.md rule R23). -/
abbrev RegNum := BitVec 8

end Sys2Proof
end

