-- ==== Sys2Proof/Config.lean ====
section
/-! DEFINITION. The fixed constants (00_scope.md rules R7 and R8), the memory and register-file capacities (rule R9),
and the parameters the spec leaves OPEN (rule R9, 70_reset_and_hazards.md rule R242). -/

namespace Sys2Proof

/-- sizeof(FrameHeader), in bytes (R7). -/
abbrev fhSize : Nat := 5

/-- sizeof(GroupHeader), in bytes (R7). -/
abbrev ghSize : Nat := 13

/-- MAX_PAYLOAD = 2^11 - 1 (R7). -/
abbrev maxPayload : Nat := 2047

/-- FRAME_MAX_SIZE = FH_SIZE + MAX_PAYLOAD (R8). -/
abbrev frameMaxSize : Nat := 2052

/-- GROUP_MAX_SIZE (R7). -/
abbrev groupMaxSize : Nat := 65535

/-- MEM_SIZE, the bytes of M; the addresses are 0 to 65534 (R9, 10_state.md rule R21). -/
abbrev memSize : Nat := 65535

/-- AVOID_MAX, the capacity of the avoid-sequence register file (R9). -/
abbrev avoidMax : Nat := 16

/-- FRAME_MAGIC (R7). -/
abbrev frameMagic : Byte := 0x7E#8

/-- GROUP_MAGIC (R7). -/
abbrev groupMagic : Byte := 0xAA#8

/-- SENTINEL_ID (R7). -/
abbrev sentinelId : BitVec 7 := 127#7

/-- PROTOCOL_VERSION (R2, R7). No command compares with it (40_fields_crc.md rule R112). -/
abbrev protocolVersion : Byte := 0#8

/-- The parameters of one instance of the block (R9, R242): fixed for the instance, no register, not writable
by the host, surviving reset. The model takes them as an argument: they travel in State as a field that no step writes (log
entry 2). -/
structure Params where
  /-- FRAME_CRC_POLY, the x^14 term implicit. OPEN. -/
  frameCrcPoly : BitVec 14
  /-- FRAME_CRC_INIT. OPEN. -/
  frameCrcInit : BitVec 14
  /-- GROUP_CRC_POLY, the x^8 term implicit. OPEN. -/
  groupCrcPoly : BitVec 8
  /-- GROUP_CRC_INIT. OPEN. -/
  groupCrcInit : BitVec 8
  /-- GROUP_MIN_SIZE, default 18, at least 18 (43_group.md rule R182). -/
  groupMinSize : Nat
deriving DecidableEq, Repr

/-- FRAME_CRC_POLY of the instance that State.reset stands for: OPEN, so no proof can see its value (R9). -/
opaque Config.frameCrcPoly : BitVec 14

/-- FRAME_CRC_INIT of that instance: OPEN (R9). -/
opaque Config.frameCrcInit : BitVec 14

/-- GROUP_CRC_POLY of that instance: OPEN (R9). -/
opaque Config.groupCrcPoly : BitVec 8

/-- GROUP_CRC_INIT of that instance: OPEN (R9). -/
opaque Config.groupCrcInit : BitVec 8

/-- GROUP_MIN_SIZE of that instance: the default the spec gives, GH_SIZE + FH_SIZE (R9). DESIGN CHOICE
(log entry 2). -/
def Config.groupMinSize : Nat := 18

/-- The parameters of the instance that State.reset stands for. -/
def Config.params : Params :=
  { frameCrcPoly := Config.frameCrcPoly
    frameCrcInit := Config.frameCrcInit
    groupCrcPoly := Config.groupCrcPoly
    groupCrcInit := Config.groupCrcInit
    groupMinSize := Config.groupMinSize }

end Sys2Proof
end

