-- ==== Sys2Proof/Syntax.lean ====
section
/-! DEFINITION. The command set: one constructor per row of spec/opcode_table.json (30_encoding.md rule R78). -/

namespace Sys2Proof

/-- A decoded command. The operands are the fields of the row's format (30_encoding.md rules R71 to R75), already
assembled: nothing is sign-extended or scaled, and the id of F.WRHDR is already masked to 7 bits (R74). -/
inductive Instr where
  /-- F.BIND base, size, mode (format B; 41_frame.md rule R132). The mode is checked at execution, not by the decoder (R72). -/
  | fBind (base size : BitVec 16) (mode : BitVec 8)
  /-- F.WRDATA width (format W; rule R133). -/
  | fWrdata (width : BitVec 8)
  /-- F.RDDATA width (format W; rule R134). -/
  | fRddata (width : BitVec 8)
  /-- F.WRHDR id (format H; rule R135). -/
  | fWrhdr (id : BitVec 7)
  /-- F.ISVALID (format N; rule R136). -/
  | fIsvalid
  /-- F.ISEOG (format N; rule R137). -/
  | fIseog
  /-- F.STUFF (format N; 42_stuffing.md rule R162). -/
  | fStuff
  /-- F.DESTUFF (format N; rule R163). -/
  | fDestuff
  /-- F.MSGSIZE (format N; 41_frame.md rule R138). -/
  | fMsgsize
  /-- F.PROCSIZE (format N; rule R139). -/
  | fProcsize
  /-- G.OPENW (format N; 43_group.md rule R181). -/
  | gOpenw
  /-- G.OPENR size (format S; rule R182). -/
  | gOpenr (size : BitVec 16)
  /-- G.COMMIT (format N; rule R183). -/
  | gCommit
  /-- G.NEXT (format N; rule R184). -/
  | gNext
  /-- G.TRAILER (format N; rule R185). -/
  | gTrailer
  /-- G.HDRVALID (format N; rule R186). -/
  | gHdrvalid
  /-- G.CALCSIZE (format N; rule R187). -/
  | gCalcsize
deriving DecidableEq, Repr

end Sys2Proof
end

