-- ==== Sys2Proof/WellFormed.lean ====
section
/-! DEFINITION. What makes a command well-formed: the one operand check the decoder makes (30_encoding.md rule R73). -/

namespace Sys2Proof

/-- The legal widths of format W (30_encoding.md rule R73). -/
def legalWidth (w : BitVec 8) : Bool :=
  w == 1#8 || w == 2#8 || w == 4#8 || w == 8#8

/-- A command the decoder can give: format W has a legal width (R73, R79 step 3); every other operand is legal at every
value, its range being checked at execution (R72, R74, R75). -/
def Instr.wellFormed : Instr → Bool
  | .fBind _ _ _ => true
  | .fWrdata w => legalWidth w
  | .fRddata w => legalWidth w
  | .fWrhdr _ => true
  | .fIsvalid => true
  | .fIseog => true
  | .fStuff => true
  | .fDestuff => true
  | .fMsgsize => true
  | .fProcsize => true
  | .gOpenw => true
  | .gOpenr _ => true
  | .gCommit => true
  | .gNext => true
  | .gTrailer => true
  | .gHdrvalid => true
  | .gCalcsize => true

end Sys2Proof
end

