-- ==== Sys2Proof/Decode.lean ====
section
/-! DEFINITION. The command decoder (30_encoding.md rules R70 to R79 and R84), the encoder written from the same
tables, and the assembler spelling of a command (rule R85). -/

namespace Sys2Proof

/-- Why a word is no command (30_encoding.md rule R79, steps 1 to 3). Every one of them is the illegal command of rule R77. -/
inductive DecodeError where
  /-- Step 1: OPC is not in the table. -/
  | reservedOpcode (opc : BitVec 8)
  /-- Step 2: a must-be-zero field of the row is not zero. -/
  | mustBeZero (mnemonic : String)
  /-- Step 3: a width of format W outside 1, 2, 4 and 8. -/
  | badWidth (width : BitVec 8)
deriving DecidableEq, Repr

/-- OPC, bits 7..0 of the command word (R70). -/
def opcField (w : CommandWord) : BitVec 8 := w.extractLsb' 0 8

/-- F, bits 15..8 (R70). -/
def fField (w : CommandWord) : BitVec 8 := w.extractLsb' 8 8

/-- A, bits 31..16 (R70). -/
def aField (w : CommandWord) : BitVec 16 := w.extractLsb' 16 16

/-- B, bits 47..32 (R70). -/
def bField (w : CommandWord) : BitVec 16 := w.extractLsb' 32 16

/-- The operand formats (30_encoding.md rule R71). -/
inductive Format where
  | n | b | w | h | s
deriving DecidableEq, Repr

/-- The bits a row of each format checks: OPC and every must-be-zero field (R71, R78). -/
def Format.mask : Format → CommandWord
  | .n => 0xFFFFFFFFFFFFFFFF#64
  | .b => 0xFFFF0000000000FF#64
  | .w => 0xFFFFFFFFFFFF00FF#64
  | .h => 0xFFFFFFFFFFFF00FF#64
  | .s => 0xFFFFFFFF0000FFFF#64

/-- One row of the opcode map (R78); a row's match word has OPC in bits 7..0 and zero elsewhere. -/
structure OpRow where
  mnemonic : String
  format : Format
  mtch : CommandWord
deriving DecidableEq, Repr

/-- The opcode map, in the table's order (30_encoding.md rule R78, spec/opcode_table.json). -/
def opcodeMap : List OpRow :=
  [ ⟨"F.BIND", .b, 0x01#64⟩,
    ⟨"F.WRDATA", .w, 0x02#64⟩,
    ⟨"F.RDDATA", .w, 0x03#64⟩,
    ⟨"F.WRHDR", .h, 0x04#64⟩,
    ⟨"F.ISVALID", .n, 0x05#64⟩,
    ⟨"F.ISEOG", .n, 0x06#64⟩,
    ⟨"F.STUFF", .n, 0x07#64⟩,
    ⟨"F.DESTUFF", .n, 0x08#64⟩,
    ⟨"F.MSGSIZE", .n, 0x09#64⟩,
    ⟨"F.PROCSIZE", .n, 0x0A#64⟩,
    ⟨"G.OPENW", .n, 0x10#64⟩,
    ⟨"G.OPENR", .s, 0x11#64⟩,
    ⟨"G.COMMIT", .n, 0x12#64⟩,
    ⟨"G.NEXT", .n, 0x13#64⟩,
    ⟨"G.TRAILER", .n, 0x14#64⟩,
    ⟨"G.HDRVALID", .n, 0x15#64⟩,
    ⟨"G.CALCSIZE", .n, 0x16#64⟩ ]

/-- The row whose opcode a word carries, if any (R79 step 1). -/
def rowOf (w : CommandWord) : Option OpRow :=
  opcodeMap.find? fun r => opcField r.mtch == opcField w

/-- The width check of format W (R73, R79 step 3). -/
def checkWidth (f : BitVec 8) (i : Instr) : Except DecodeError Instr :=
  if legalWidth f then .ok i else .error (.badWidth f)

/-- The command an opcode names, with its operands assembled from the word (R72 to R75, R78). -/
def assemble (w : CommandWord) : Except DecodeError Instr :=
  match (opcField w).toNat with
  | 0x01 => .ok (.fBind (aField w) (bField w) (fField w))
  | 0x02 => checkWidth (fField w) (.fWrdata (fField w))
  | 0x03 => checkWidth (fField w) (.fRddata (fField w))
  | 0x04 => .ok (.fWrhdr ((fField w).setWidth 7))
  | 0x05 => .ok .fIsvalid
  | 0x06 => .ok .fIseog
  | 0x07 => .ok .fStuff
  | 0x08 => .ok .fDestuff
  | 0x09 => .ok .fMsgsize
  | 0x0A => .ok .fProcsize
  | 0x10 => .ok .gOpenw
  | 0x11 => .ok (.gOpenr (aField w))
  | 0x12 => .ok .gCommit
  | 0x13 => .ok .gNext
  | 0x14 => .ok .gTrailer
  | 0x15 => .ok .gHdrvalid
  | 0x16 => .ok .gCalcsize
  | _ => .error (.reservedOpcode (opcField w))

/-- Decoding, in the order of 30_encoding.md rule R79: the opcode, then the must-be-zero fields, then the width. Total:
every 64-bit word is a command or illegal, and no mode changes decoding (R84). -/
def decode (w : CommandWord) : Except DecodeError Instr :=
  match rowOf w with
  | none => .error (.reservedOpcode (opcField w))
  | some r => if w &&& r.format.mask = r.mtch then assemble w else .error (.mustBeZero r.mnemonic)

/-- A command word from its fields, RSV zero (R70). -/
def packWord (opc f : BitVec 8) (a b : BitVec 16) : CommandWord :=
  (0#16 ++ b ++ a ++ f ++ opc : BitVec (16 + 16 + 16 + 8 + 8))

/-- The word of a command (R70, R71, R78): the fields a format does not use are zero, and bit 7 of F.WRHDR's F is zero. -/
def encode : Instr → CommandWord
  | .fBind base size mode => packWord 0x01 mode base size
  | .fWrdata width => packWord 0x02 width 0 0
  | .fRddata width => packWord 0x03 width 0 0
  | .fWrhdr id => packWord 0x04 (id.setWidth 8) 0 0
  | .fIsvalid => packWord 0x05 0 0 0
  | .fIseog => packWord 0x06 0 0 0
  | .fStuff => packWord 0x07 0 0 0
  | .fDestuff => packWord 0x08 0 0 0
  | .fMsgsize => packWord 0x09 0 0 0
  | .fProcsize => packWord 0x0A 0 0 0
  | .gOpenw => packWord 0x10 0 0 0
  | .gOpenr size => packWord 0x11 0 size 0
  | .gCommit => packWord 0x12 0 0 0
  | .gNext => packWord 0x13 0 0 0
  | .gTrailer => packWord 0x14 0 0 0
  | .gHdrvalid => packWord 0x15 0 0 0
  | .gCalcsize => packWord 0x16 0 0 0

/-- The row's mnemonic of a command, as spec/opcode_table.json spells it (R78). -/
def Instr.mnemonic : Instr → String
  | .fBind _ _ _ => "F.BIND"
  | .fWrdata _ => "F.WRDATA"
  | .fRddata _ => "F.RDDATA"
  | .fWrhdr _ => "F.WRHDR"
  | .fIsvalid => "F.ISVALID"
  | .fIseog => "F.ISEOG"
  | .fStuff => "F.STUFF"
  | .fDestuff => "F.DESTUFF"
  | .fMsgsize => "F.MSGSIZE"
  | .fProcsize => "F.PROCSIZE"
  | .gOpenw => "G.OPENW"
  | .gOpenr _ => "G.OPENR"
  | .gCommit => "G.COMMIT"
  | .gNext => "G.NEXT"
  | .gTrailer => "G.TRAILER"
  | .gHdrvalid => "G.HDRVALID"
  | .gCalcsize => "G.CALCSIZE"

/-- The mode operand's assembler spelling (30_encoding.md rule R85); a mode outside 1, 2 and 3 is written as its number. -/
def modeAsm (mode : BitVec 8) : String :=
  match mode.toNat with
  | 1 => "R"
  | 2 => "W"
  | 3 => "RW"
  | n => toString n

/-- The operands in assembler order, numbers in decimal (R13, R85). DESIGN CHOICE (log entry 11). -/
def Instr.asmOperands : Instr → List String
  | .fBind base size mode => [toString base.toNat, toString size.toNat, modeAsm mode]
  | .fWrdata width => [toString width.toNat]
  | .fRddata width => [toString width.toNat]
  | .fWrhdr id => [toString id.toNat]
  | .fIsvalid => []
  | .fIseog => []
  | .fStuff => []
  | .fDestuff => []
  | .fMsgsize => []
  | .fProcsize => []
  | .gOpenw => []
  | .gOpenr size => [toString size.toNat]
  | .gCommit => []
  | .gNext => []
  | .gTrailer => []
  | .gHdrvalid => []
  | .gCalcsize => []

/-- A command as the assembler writes it: MNEMONIC operand, operand, ... (R13, R85). -/
def Instr.asm (i : Instr) : String :=
  match i.asmOperands with
  | [] => i.mnemonic
  | ops => i.mnemonic ++ " " ++ String.intercalate ", " ops

/-- The instruction the decoder reads from a table word of nbits bits (bit 0 is bit 0 of the one 64-bit word; the bits
above nbits are zero). -/
def decodeTableWord (nbits w : Nat) : Option Instr :=
  (decode (BitVec.ofNat 64 (w % 2 ^ nbits))).toOption

end Sys2Proof
end

