-- ==== Sys2Proof/Machine/State.lean ====
section
/-! DEFINITION. The state of the block: every register of 10_state.md rule R23, the buffer memory M (rule R21), the
instance's parameters (00_scope.md rule R9), and the host port's two ends (rule R44). -/

namespace Sys2Proof.Machine

/-- Why a step stops with a fault. -/
inductive Fault where
  /-- Raised by an engine access to n bytes of M from address a on, when a + n > MEM_SIZE: such addresses do not exist
  (10_state.md rule R21). Every command checks its bounds first (20_memory.md rule R58), so this is reached only in a state
  that breaks the invariants of rules R33 and R37, which no run from reset reaches. Safe: the machine stops where the spec
  gives nothing (log entry 5). -/
  | noSuchAddress (a n : Nat)
deriving DecidableEq, Repr

/-- Why a step gives no meaning. -/
inductive Refusal where
  /-- Raised only by an arm of exec whose instruction has no meaning yet; there is none. Safe. -/
  | notModelled (mnemonic : String)
deriving DecidableEq, Repr

/-- The completion codes of STATUS (60_exceptions.md rule R220). -/
inductive Status where
  | ok
  | errIllegal
  | errConstruct
  | errCapability
  | errBounds
  | errUnbound
  | errStuff
  | noFrame
  | errPrecond
deriving DecidableEq, Repr

/-- The registers of the host register map (10_state.md rule R23). -/
inductive Reg where
  | cmd
  | status
  | result
  | dataIn
  | dataOut
  | avoidLen
  | timeSec
  | timeNsec
  | avoid (k : Fin 16)
  | fvBound
  | fvMode
  | fvBase
  | fvSize
  | fvCursor
  | fhMagic
  | fhId
  | fhLen
  | fhCrc
  | gMode
  | gSize
  | gFc
  | gFrames
  | ghMagic
  | ghVers
  | ghTsSec
  | ghTsNsec
  | ghNumFrames
  | ghHeaderLen
  | ghHcrc
deriving DecidableEq, Repr

/-- FV_MODE: the read capability alone (10_state.md rule R31). -/
abbrev modeRead : BitVec 2 := 1#2
/-- FV_MODE: the write capability alone (R31). -/
abbrev modeWrite : BitVec 2 := 2#2
/-- FV_MODE: both capabilities (R31). -/
abbrev modeReadWrite : BitVec 2 := 3#2

/-- G_MODE: no group open (10_state.md rule R35). -/
abbrev groupNone : BitVec 2 := 0#2
/-- G_MODE: a group open for reading (R35). -/
abbrev groupRead : BitVec 2 := 1#2
/-- G_MODE: a group open for writing (R35). -/
abbrev groupWrite : BitVec 2 := 2#2

/-- The frame view registers FV_* (10_state.md rules R30 to R33). -/
structure FrameView where
  bound : BitVec 1
  mode : BitVec 2
  base : BitVec 16
  size : BitVec 12
  cursor : BitVec 12
deriving DecidableEq, Repr

/-- A frame header's four fields: the cached header FH_* (10_state.md rule R34), and a probe's (40_fields_crc.md rule R113). -/
structure FrameHeader where
  magic : BitVec 8
  id : BitVec 7
  len : BitVec 11
  crc : BitVec 14
deriving DecidableEq, Repr

/-- The group registers G_MODE, G_SIZE, G_FC and G_FRAMES (10_state.md rules R35 to R38). -/
structure GroupView where
  mode : BitVec 2
  size : BitVec 16
  fc : BitVec 16
  frames : BitVec 11
deriving DecidableEq, Repr

/-- The cached group header GH_* (10_state.md rule R39). -/
structure GroupHeader where
  magic : BitVec 8
  vers : BitVec 8
  tsSec : BitVec 32
  tsNsec : BitVec 32
  numFrames : BitVec 11
  headerLen : BitVec 5
  hcrc : BitVec 8
deriving DecidableEq, Repr

/-- The buffer memory M (10_state.md rule R21), as the cells that differ from what an unlisted address reads as, addresses
strictly rising. -/
structure Memory where
  cells : List Host.Cell
deriving DecidableEq, Repr

/-- A host transaction (10_state.md rule R44). Addresses and lengths of memory transactions are plain numbers, so that the
out-of-range ones of that rule can be written. DESIGN CHOICE (log entry 9). -/
inductive Transaction where
  /-- HOST.RD num -/
  | rd (num : RegNum)
  /-- HOST.WR num, v; a write to CMD issues the command v. -/
  | wr (num : RegNum) (v : BitVec 64)
  /-- HOST.MEMRD a, n -/
  | memRd (a n : Nat)
  /-- HOST.MEMWR a, bytes -/
  | memWr (a : Nat) (bytes : List Byte)
  /-- reset -/
  | reset
deriving DecidableEq, Repr

/-- What the host port answered to its last transaction. -/
inductive Reply where
  | none
  | reg (v : BitVec 64)
  | bytes (bs : List Byte)
deriving DecidableEq, Repr

/-- The machine's state. -/
structure State where
  /-- CMD, the last word the host wrote there (R23). DEDUCED (log entry 7). -/
  cmd : BitVec 64
  /-- STATUS (R25). -/
  status : BitVec 8
  /-- RESULT, 32-bit two's complement (R26). -/
  result : BitVec 32
  /-- DATA_IN (R27). -/
  dataIn : BitVec 64
  /-- DATA_OUT (R27). -/
  dataOut : BitVec 64
  /-- AVOID_LEN (R28). -/
  avoidLen : BitVec 8
  /-- AVOID[0..15] (R28). -/
  avoid : Vector Byte 16
  /-- TIME_SEC (R29). -/
  timeSec : BitVec 32
  /-- TIME_NSEC (R29). -/
  timeNsec : BitVec 32
  /-- FV_BOUND, FV_MODE, FV_BASE, FV_SIZE, FV_CURSOR (R30 to R33). -/
  fv : FrameView
  /-- FH_MAGIC, FH_ID, FH_LEN, FH_CRC: the cached frame header (R34). -/
  fh : FrameHeader
  /-- G_MODE, G_SIZE, G_FC, G_FRAMES (R35 to R38). -/
  grp : GroupView
  /-- GH_*: the cached group header (R39). -/
  gh : GroupHeader
  /-- M (R21). -/
  mem : Memory
  /-- The instance's parameters (00_scope.md rule R9, 70_reset_and_hazards.md rule R242); no step writes them. -/
  params : Params
  /-- The host's transactions the port has not accepted yet, in the order it accepts them (20_memory.md rule R60). The
  model's own field, not the spec's: the input a step reads. DESIGN CHOICE (log entry 3). -/
  inbox : List Transaction
  /-- The host port's answer to the last transaction (R44). The model's own field: the output a step writes. DESIGN CHOICE
  (log entry 3). -/
  reply : Reply
deriving DecidableEq, Repr

/-- The frame view after reset (R42). -/
def FrameView.reset : FrameView := { bound := 0, mode := 0, base := 0, size := 0, cursor := 0 }

/-- The all-zero cached frame header: after reset (R42) and after a bind in Write mode (41_frame.md rule R130). -/
def FrameHeader.zero : FrameHeader := { magic := 0, id := 0, len := 0, crc := 0 }

/-- The group registers after reset: G_MODE = NONE (R42). -/
def GroupView.reset : GroupView := { mode := groupNone, size := 0, fc := 0, frames := 0 }

/-- The all-zero cached group header: after reset (R42) and after G.OPENW (43_group.md rule R181). -/
def GroupHeader.zero : GroupHeader :=
  { magic := 0, vers := 0, tsSec := 0, tsNsec := 0, numFrames := 0, headerLen := 0, hcrc := 0 }

/-- The machine right after power-on: every register 0 (10_state.md rule R42, 70_reset_and_hazards.md rule R240), no
transaction offered yet. DESIGN CHOICE, unsafe (log entry 1): the spec leaves the contents of M unspecified (rule R22); here
nothing is listed, so every byte reads as zero, and no statement rests on it. -/
def State.reset : State :=
  { cmd := 0
    status := 0
    result := 0
    dataIn := 0
    dataOut := 0
    avoidLen := 0
    avoid := Vector.replicate 16 0
    timeSec := 0
    timeNsec := 0
    fv := FrameView.reset
    fh := FrameHeader.zero
    grp := GroupView.reset
    gh := GroupHeader.zero
    mem := { cells := [] }
    params := Config.params
    inbox := []
    reply := .none }

end Sys2Proof.Machine
end

