-- ==== Sys2Proof/Machine/Flags.lean ====
section
/-! DEFINITION. The block has no flag register (10_state.md rule R41); completion is reported in STATUS and RESULT. This
file holds the completion codes and the values of RESULT. -/

namespace Sys2Proof.Machine

/-- The number of a completion code (60_exceptions.md rule R220). -/
def Status.code : Status → BitVec 8
  | .ok => 0
  | .errIllegal => 1
  | .errConstruct => 2
  | .errCapability => 3
  | .errBounds => 4
  | .errUnbound => 5
  | .errStuff => 6
  | .noFrame => 7
  | .errPrecond => 8

/-- A predicate's value in RESULT (10_state.md rules R26 and R41). -/
def boolResult (b : Bool) : BitVec 32 := if b then 1#32 else 0#32

/-- A size or count in RESULT (R26). -/
def natResult (n : Nat) : BitVec 32 := BitVec.ofNat 32 n

/-- The stuffing "error" count -1 (R26). -/
def minusOne : BitVec 32 := 0xFFFFFFFF#32

end Sys2Proof.Machine
end

