-- ==== Sys2Proof/Machine/Ops.lean ====
section
/-! DEFINITION. The named operations over M, the registers and the end of a command, which every meaning is written in. The
block takes no exception (60_exceptions.md rules R226 and R227): the shared way a command fails is `fail`, beside `finish`. -/

namespace Sys2Proof.Machine

/-- What a command gives. -/
abbrev Outcome := Host.Outcome State Fault Refusal

/-! ### Memory -/

/-- What an unlisted address of M reads as. DESIGN CHOICE, unsafe at power-on (log entry 1); after G.OPENW it is the zero that
43_group.md rule R181 stores. -/
def Memory.unlisted : Byte := 0#8

/-- The byte a list of cells gives for an address. -/
def Memory.lookup : List Host.Cell → Nat → Byte
  | [], _ => Memory.unlisted
  | (k, v) :: rest, a => if k = a then v else Memory.lookup rest a

/-- M[a] (20_memory.md rule R56: reading changes nothing). -/
def Memory.readByte (m : Memory) (a : Nat) : Byte := Memory.lookup m.cells a

/-- The cells that list one byte: none when it is what an unlisted address reads as. -/
def Memory.cellOf (a : Nat) (v : Byte) : List Host.Cell :=
  if v = Memory.unlisted then [] else [(a, v)]

/-- Puts one byte into rising cells. -/
def Memory.insertCell (a : Nat) (v : Byte) : List Host.Cell → List Host.Cell
  | [] => Memory.cellOf a v
  | (k, w) :: rest =>
    if k < a then (k, w) :: Memory.insertCell a v rest
    else if k = a then Memory.cellOf a v ++ rest
    else Memory.cellOf a v ++ (k, w) :: rest

/-- M[a] <- v. No byte exists at or above MEM_SIZE (10_state.md rule R21), so nothing is written there; the engine's accesses go
through `access`, which faults first. -/
def Memory.writeByte (m : Memory) (a : Nat) (v : Byte) : Memory :=
  if a < memSize then { cells := Memory.insertCell a v m.cells } else m

/-- MemRead(a, n) (00_scope.md rule R11). -/
def Memory.readBytes (m : Memory) (a : Nat) : Nat → List Byte
  | 0 => []
  | n + 1 => m.readByte a :: Memory.readBytes m (a + 1) n

/-- MemWrite(a, n, s), with n the length of s (R11). -/
def Memory.writeBytes (m : Memory) (a : Nat) : List Byte → Memory
  | [] => m
  | b :: bs => Memory.writeBytes (m.writeByte a b) (a + 1) bs

/-- M with every byte zero (43_group.md rule R181). -/
def Memory.cleared : Memory := { cells := [] }

/-- The addresses of a list of cells rise strictly, all from `lo` on. -/
def Memory.risingFrom (lo : Nat) : List Host.Cell → Bool
  | [] => true
  | (k, _) :: rest => decide (lo ≤ k) && Memory.risingFrom (k + 1) rest

/-- The canonical form: addresses strictly rising, each below MEM_SIZE, and no cell equal to what an unlisted address reads as. -/
def Memory.wf (m : Memory) : Bool :=
  Memory.risingFrom 0 m.cells
    && m.cells.all fun c => decide (c.1 < memSize) && decide (c.2 ≠ Memory.unlisted)

/-! ### Byte order -/

/-- BEbytes_n(v): the n-byte big-endian sequence of v mod 2^(8n) (00_scope.md rule R11, 20_memory.md rule R50). -/
def beBytes : Nat → Nat → List Byte
  | 0, _ => []
  | n + 1, v => BitVec.ofNat 8 (v / 2 ^ (8 * n)) :: beBytes n v

/-- BE(s): the number whose big-endian byte sequence is s (R11). -/
def beNat (bs : List Byte) : Nat :=
  bs.foldl (fun acc b => acc * 256 + b.toNat) 0

/-! ### Register updates -/

/-- STATUS and RESULT at the end of a command (10_state.md rules R25 and R26). -/
def State.finished (st : Status) (res : BitVec 32) (s : State) : State :=
  { s with status := st.code, result := res }

/-- M replaced. -/
def State.setMem (m : Memory) (s : State) : State := { s with mem := m }

/-- FV_CURSOR <- n, masked to its 12 bits (00_scope.md rule R11). -/
def State.setCursor (n : Nat) (s : State) : State :=
  { s with fv := { s.fv with cursor := BitVec.ofNat 12 n } }

/-- DATA_OUT <- v. -/
def State.setDataOut (v : BitVec 64) (s : State) : State := { s with dataOut := v }

/-- The frame view registers replaced. -/
def State.setView (v : FrameView) (s : State) : State := { s with fv := v }

/-- The cached frame header replaced. -/
def State.setFh (h : FrameHeader) (s : State) : State := { s with fh := h }

/-- The group registers replaced. -/
def State.setGroup (g : GroupView) (s : State) : State := { s with grp := g }

/-- The cached group header replaced. -/
def State.setGh (h : GroupHeader) (s : State) : State := { s with gh := h }

/-- CMD <- w, on a host write to CMD (10_state.md rule R44). -/
def State.setCmd (w : CommandWord) (s : State) : State := { s with cmd := w }

/-- The host port's answer. -/
def State.setReply (r : Reply) (s : State) : State := { s with reply := r }

/-- The port accepts the first offered transaction: what remains offered is `rest`, and nothing is answered yet. -/
def State.accept (rest : List Transaction) (s : State) : State := { s with inbox := rest, reply := .none }

/-! ### The end of a command -/

/-- finish(st, res) (00_scope.md rule R11). -/
def finish (st : Status) (res : BitVec 32) (s : State) : Outcome :=
  .next (s.finished st res)

/-- fail(st): finish(st, 0) with no other state changed (R11; 60_exceptions.md rules R223 and R226). -/
def fail (st : Status) (s : State) : Outcome := finish st 0#32 s

/-- An engine access to n bytes of M from address a on: it stays within [0, MEM_SIZE) (20_memory.md rule R58) or faults. -/
def access (a n : Nat) (k : Outcome) : Outcome :=
  if a + n ≤ memSize then k else .fault (.noSuchAddress a n)

end Sys2Proof.Machine
end

