-- ==== Sys2Proof/Machine/Crc.lean ====
section
/-! DEFINITION. The CRC generator (40_fields_crc.md rule R106): non-reflected, most significant bit first, no final XOR. -/

namespace Sys2Proof.Machine

/-- One bit of R106's inner loop. -/
def crcBit {W : Nat} (poly r : BitVec W) (b : Bool) : BitVec W :=
  if (b ^^ r.msb) then (r <<< 1) ^^^ poly else r <<< 1

/-- The bits of a byte in the order of R106: k = 7 down to 0. -/
def bitsMsbFirst (b : Byte) : List Bool :=
  [b.getLsbD 7, b.getLsbD 6, b.getLsbD 5, b.getLsbD 4, b.getLsbD 3, b.getLsbD 2, b.getLsbD 1, b.getLsbD 0]

/-- One byte of R106's outer loop. -/
def crcByte {W : Nat} (poly r : BitVec W) (b : Byte) : BitVec W :=
  (bitsMsbFirst b).foldl (crcBit poly) r

/-- crc(W, poly, data, init) (R106); W is the type's, and poly and init are already of that width. -/
def crc {W : Nat} (poly : BitVec W) (data : List Byte) (init : BitVec W) : BitVec W :=
  data.foldl (crcByte poly) init

end Sys2Proof.Machine
end

