-- ==== Sys2Proof/Machine/Headers.lean ====
section
/-! DEFINITION. The header serializers and deserializers and the integrity predicates (40_fields_crc.md rules R102 to R113;
30_encoding.md rules R80 to R82). A field value is masked by its type's width (rule R100). -/

namespace Sys2Proof.Machine

/-- The 40-bit number H = magic, id, len, crc, most significant first (R80, R102). -/
def FrameHeader.word (h : FrameHeader) : BitVec (8 + 7 + 11 + 14) :=
  h.magic ++ h.id ++ h.len ++ h.crc

/-- SerFH (R102). -/
def serFH (h : FrameHeader) : List Byte := beBytes 5 h.word.toNat

/-- DesFH (R103): accepts every byte sequence. -/
def desFH (bs : List Byte) : FrameHeader :=
  let w : BitVec 40 := BitVec.ofNat 40 (beNat bs)
  { magic := w.extractLsb' 32 8
    id := w.extractLsb' 25 7
    len := w.extractLsb' 14 11
    crc := w.extractLsb' 0 14 }

/-- The 16-bit word Q = numFrames, headerLen (R81, R104). -/
def GroupHeader.countWord (h : GroupHeader) : BitVec (11 + 5) := h.numFrames ++ h.headerLen

/-- SerGH (R104). -/
def serGH (h : GroupHeader) : List Byte :=
  [h.magic, h.vers] ++ beBytes 4 h.tsSec.toNat ++ beBytes 4 h.tsNsec.toNat
    ++ beBytes 2 h.countWord.toNat ++ [h.hcrc]

/-- DesGH (R105): accepts every 13-byte sequence. -/
def desGH (bs : List Byte) : GroupHeader :=
  let q : BitVec 16 := BitVec.ofNat 16 (beNat ((bs.drop 10).take 2))
  { magic := bs.getD 0 0
    vers := bs.getD 1 0
    tsSec := BitVec.ofNat 32 (beNat ((bs.drop 2).take 4))
    tsNsec := BitVec.ofNat 32 (beNat ((bs.drop 6).take 4))
    numFrames := q.extractLsb' 5 11
    headerLen := q.extractLsb' 0 5
    hcrc := bs.getD 12 0 }

/-- The End-Of-Group header (R82). -/
def sentinelHeader : FrameHeader := { magic := frameMagic, id := sentinelId, len := 0, crc := 0 }

/-- FrameCRC(id, len, base) (R107): the header with crc zero, then the payload bytes in M. -/
def frameCrc (pr : Params) (m : Memory) (id : BitVec 7) (len : BitVec 11) (base : Nat) : BitVec 14 :=
  crc pr.frameCrcPoly
    (serFH { magic := frameMagic, id := id, len := len, crc := 0 } ++ m.readBytes (base + fhSize) len.toNat)
    pr.frameCrcInit

/-- GroupCRC(gh) (R108): the header with hcrc zero. -/
def groupCrc (pr : Params) (h : GroupHeader) : BitVec 8 :=
  crc pr.groupCrcPoly (serGH { h with hcrc := 0 }) pr.groupCrcInit

/-- The first three terms of Valid (R109): the magic, and the declared length within the view and the frame maximum. -/
def headerFits (h : FrameHeader) (size : Nat) : Bool :=
  h.magic == frameMagic && decide (fhSize + h.len.toNat ≤ size) && decide (fhSize + h.len.toNat ≤ frameMaxSize)

/-- Valid(magic, id, len, crc, base, size) (R109); the CRC term is evaluated last. -/
def frameValid (pr : Params) (m : Memory) (h : FrameHeader) (base size : Nat) : Bool :=
  headerFits h size && frameCrc pr m h.id h.len base == h.crc

/-- EOG(magic, id, len, crc) (R110): no CRC is computed. -/
def isEog (h : FrameHeader) : Bool :=
  h.magic == frameMagic && h.id == sentinelId && h.len == 0 && h.crc == 0

/-- HValid(gh) (R112): neither vers nor headerLen is checked. -/
def groupHeaderValid (pr : Params) (h : GroupHeader) : Bool :=
  h.magic == groupMagic && groupCrc pr h == h.hcrc

/-- The header a probe reads straight from M at offset p (R113). -/
def probeHeader (m : Memory) (p : Nat) : FrameHeader := desFH (m.readBytes p fhSize)

/-- The size of a view or probe at offset p of a group of gsize bytes: min(gsize - p, FMAX) (R113, 10_state.md rule R37). -/
def viewSizeAt (gsize p : Nat) : Nat := min (gsize - p) frameMaxSize

/-- ProbeValid(p) (R113). -/
def probeValid (pr : Params) (m : Memory) (gsize p : Nat) : Bool :=
  frameValid pr m (probeHeader m p) p (viewSizeAt gsize p)

/-- ProbeEOG(p) (R113). -/
def probeEog (m : Memory) (p : Nat) : Bool := isEog (probeHeader m p)

end Sys2Proof.Machine
end

