-- ==== Sys2Proof/Machine/Operands.lean ====
section
/-! DEFINITION. The operands a command takes from registers (30_encoding.md rule R76), the checks that guard it, and the bind
step the binding commands share (41_frame.md rules R130 and R131, 42_stuffing.md rule R160, 43_group.md rule R180). -/

namespace Sys2Proof.Machine

/-! ### The frame view -/

/-- The address of payload byte 0: FV_BASE + 5 (10_state.md rule R30). -/
def State.payloadBase (s : State) : Nat := s.fv.base.toNat + fhSize

/-- The address of the payload byte at the cursor. -/
def State.cursorAddr (s : State) : Nat := s.payloadBase + s.fv.cursor.toNat

/-- Whether w more payload bytes fit in the view past the cursor (41_frame.md rules R133 and R134). -/
def State.hasRoom (s : State) (w : Nat) : Bool :=
  decide (fhSize + s.fv.cursor.toNat + w ≤ s.fv.size.toNat)

/-- The view's read capability: bit 0 of FV_MODE (10_state.md rule R31). -/
def State.canRead (s : State) : Bool := s.fv.mode &&& 1#2 != 0#2

/-- The view's write capability: bit 1 of FV_MODE (R31). -/
def State.canWrite (s : State) : Bool := s.fv.mode &&& 2#2 != 0#2

/-- Valid(FV): the cached header over the payload bytes in M (40_fields_crc.md rule R109). -/
def State.viewValid (s : State) : Bool :=
  frameValid s.params s.mem s.fh s.fv.base.toNat s.fv.size.toNat

/-- The unbound check that every frame command but F.BIND begins with (41_frame.md rule R131). -/
def whenBound (s : State) (k : Outcome) : Outcome :=
  if s.fv.bound = 0#1 then fail .errUnbound s else k

/-- Evaluates Valid(FV) and goes on with its value. The payload is read only where the size terms hold (R109), and that read
is an engine access (20_memory.md rule R58). -/
def withViewValid (s : State) (k : Bool → Outcome) : Outcome :=
  if headerFits s.fh s.fv.size.toNat then access s.payloadBase s.fh.len.toNat (k s.viewValid) else k false

/-- Bind(base, size, mode) (41_frame.md rule R130): Write zeroes the cached header; Read and ReadWrite load it from M. -/
def bindView (base size : Nat) (mode : BitVec 2) (s : State) : State :=
  (s.setView
    { bound := 1, mode := mode, base := BitVec.ofNat 16 base, size := BitVec.ofNat 12 size, cursor := 0 }).setFh
    (if mode = modeWrite then FrameHeader.zero else desFH (s.mem.readBytes base fhSize))

/-! ### The avoid sequence (42_stuffing.md rule R160) -/

/-- seqLen. -/
def State.seqLen (s : State) : Nat := s.avoidLen.toNat

/-- AvoidOK. -/
def State.avoidOk (s : State) : Bool := decide (2 ≤ s.seqLen) && decide (s.seqLen ≤ avoidMax)

/-- The bytes P: AVOID[0] to AVOID[n-2]. -/
def State.avoidHead (s : State) : List Byte := s.avoid.toList.take (s.seqLen - 1)

/-- The escape byte E, the complement of AVOID[n-1]. -/
def State.escapeByte (s : State) : Byte := ~~~ (s.avoid.toList.getD (s.seqLen - 1) 0)

/-! ### The group -/

/-- The group-mode check (43_group.md rule R180): `modes` are the values of G_MODE the command accepts. -/
def whenGroup (modes : List (BitVec 2)) (s : State) (k : Outcome) : Outcome :=
  if s.grp.mode ∈ modes then k else fail .errCapability s

/-- G_FC <- p and Bind(p, min(G_SIZE - p, FMAX), mode): the current frame is positioned at the frame cursor (10_state.md rule
R37). -/
def bindCurrent (p : Nat) (mode : BitVec 2) (s : State) : State :=
  bindView p (viewSizeAt s.grp.size.toNat p) mode (s.setGroup { s.grp with fc := BitVec.ofNat 16 p })

end Sys2Proof.Machine
end

