-- ==== Sys2Proof/Machine/Frame.lean ====
section
/-! DEFINITION. The frame view commands (41_frame.md rules R132 to R139). -/

namespace Sys2Proof.Machine

/-- The construction checks of F.BIND: mode, size, range (R132). -/
def bindArgsOk (base size mode : Nat) : Bool :=
  (mode == 1 || mode == 2 || mode == 3) && decide (fhSize ≤ size) && decide (size ≤ frameMaxSize)
    && decide (base + size ≤ memSize)

/-- F.BIND (R132): a bind by the host detaches any open group. -/
def execFBind (base size : BitVec 16) (mode : BitVec 8) (s : State) : Outcome :=
  if bindArgsOk base.toNat size.toNat mode.toNat then
    finish .ok 1#32
      (bindView base.toNat size.toNat (mode.setWidth 2) (s.setGroup { s.grp with mode := groupNone }))
  else fail .errConstruct s

/-- F.WRDATA (R133). A width that no command word encodes runs by the same rule (log entry 10). -/
def execFWrdata (width : BitVec 8) (s : State) : Outcome :=
  whenBound s <|
    if !s.canWrite then fail .errCapability s
    else if !s.hasRoom width.toNat then fail .errBounds s
    else access s.cursorAddr width.toNat <|
      finish .ok 1#32
        ((s.setMem (s.mem.writeBytes s.cursorAddr (beBytes width.toNat s.dataIn.toNat))).setCursor
          (s.fv.cursor.toNat + width.toNat))

/-- F.RDDATA (R134): the bound is the view's size, not FH_LEN. -/
def execFRddata (width : BitVec 8) (s : State) : Outcome :=
  whenBound s <|
    if !s.canRead then fail .errCapability s
    else if !s.hasRoom width.toNat then fail .errBounds s
    else access s.cursorAddr width.toNat <|
      finish .ok 1#32
        ((s.setDataOut (BitVec.ofNat 64 (beNat (s.mem.readBytes s.cursorAddr width.toNat)))).setCursor
          (s.fv.cursor.toNat + width.toNat))

/-- The header F.WRHDR finalizes: len is the cursor, and the CRC covers the payload in M (R135). -/
def finalHeader (id : BitVec 7) (s : State) : FrameHeader :=
  let len : BitVec 11 := s.fv.cursor.setWidth 11
  { magic := frameMagic, id := id, len := len, crc := frameCrc s.params s.mem id len s.fv.base.toNat }

/-- F.WRHDR (R135): no mode check, and the cursor is not reset. -/
def execFWrhdr (id : BitVec 7) (s : State) : Outcome :=
  whenBound s <|
    if maxPayload < s.fv.cursor.toNat then fail .errBounds s
    else access s.fv.base.toNat (fhSize + s.fv.cursor.toNat) <|
      finish .ok 1#32
        ((s.setFh (finalHeader id s)).setMem (s.mem.writeBytes s.fv.base.toNat (serFH (finalHeader id s))))

/-- F.ISVALID (R136). -/
def execFIsvalid (s : State) : Outcome :=
  whenBound s <| withViewValid s fun v => finish .ok (boolResult v) s

/-- F.ISEOG (R137). -/
def execFIseog (s : State) : Outcome :=
  whenBound s <| finish .ok (boolResult (isEog s.fh)) s

/-- F.MSGSIZE (R138, 40_fields_crc.md rule R111). -/
def execFMsgsize (s : State) : Outcome :=
  whenBound s <| withViewValid s fun v => finish .ok (natResult (if v then fhSize + s.fh.len.toNat else 0)) s

/-- F.PROCSIZE (R139). -/
def execFProcsize (s : State) : Outcome :=
  whenBound s <| finish .ok (natResult (fhSize + s.fv.cursor.toNat)) s

end Sys2Proof.Machine
end

