-- ==== Sys2Proof/Machine/Scanner.lean ====
section
/-! DEFINITION. The frame scanner's two loops (43_group.md rules R184 and R187). Both move forward by at least one byte a turn,
so a fuel of G_SIZE reaches the end of the group's buffer. DEDUCED (log entry 12). -/

namespace Sys2Proof.Machine

/-- Where a scan for the next frame stops (R184). -/
inductive ScanStop where
  /-- (a) the sentinel at an offset. -/
  | sentinel (p : Nat)
  /-- (b) a valid frame at an offset. -/
  | frame (p : Nat)
  /-- The end of the buffer. -/
  | bufferEnd
deriving DecidableEq, Repr

/-- The loop of G.NEXT from offset p on (R184): at each magic byte, first the sentinel, then validity. -/
def scanNext (pr : Params) (m : Memory) (gsize : Nat) : Nat → Nat → ScanStop
  | 0, _ => .bufferEnd
  | fuel + 1, p =>
    if gsize < p + fhSize then .bufferEnd
    else if m.readByte p ≠ frameMagic then scanNext pr m gsize fuel (p + 1)
    else if probeEog m p then .sentinel p
    else if probeValid pr m gsize p then .frame p
    else scanNext pr m gsize fuel (p + 1)

/-- The loop of G.CALCSIZE (R187): n is GH_NUMFRAMES, count the valid frames so far, size the end of the last verified one. The
order is count reached, end of buffer, candidate tests. -/
def scanSize (pr : Params) (m : Memory) (gsize n : Nat) : Nat → Nat → Nat → Nat → Nat
  | 0, _, _, size => size
  | fuel + 1, p, count, size =>
    if count = n then (if p + fhSize ≤ gsize ∧ probeEog m p = true then p + fhSize else size)
    else if gsize < p + fhSize then size
    else if m.readByte p ≠ frameMagic then scanSize pr m gsize n fuel (p + 1) count size
    else if probeEog m p then p + fhSize
    else if probeValid pr m gsize p then
      let q := p + fhSize + (probeHeader m p).len.toNat
      scanSize pr m gsize n fuel q (count + 1) q
    else scanSize pr m gsize n fuel (p + 1) count size

end Sys2Proof.Machine
end

