-- ==== Sys2Proof/Machine/Group.lean ====
section
/-! DEFINITION. The group commands (43_group.md rules R180 to R187). -/

namespace Sys2Proof.Machine

/-- G.OPENW (R181): clears M, opens an empty group for writing and binds its first frame. -/
def execGOpenw (s : State) : Outcome :=
  finish .ok 1#32
    (bindCurrent ghSize modeWrite
      (((s.setMem Memory.cleared).setGroup
        { mode := groupWrite, size := BitVec.ofNat 16 groupMaxSize, fc := BitVec.ofNat 16 ghSize, frames := 0 }).setGh
        GroupHeader.zero))

/-- G.OPENR (R182): the group header is loaded, not validated, and the first frame is at 13 whatever GH_HEADERLEN says. -/
def execGOpenr (size : BitVec 16) (s : State) : Outcome :=
  if size.toNat < s.params.groupMinSize ∨ groupMaxSize < size.toNat then fail .errConstruct s
  else
    finish .ok 1#32
      (bindCurrent ghSize modeRead
        ((s.setGroup
          { mode := groupRead, size := size, fc := BitVec.ofNat 16 ghSize, frames := 0 }).setGh
          (desGH (s.mem.readBytes 0 ghSize))))

/-- G.COMMIT (R183): counts the current frame and binds the next one, if its header fits. -/
def execGCommit (s : State) : Outcome :=
  whenGroup [groupWrite] s <| withViewValid s fun v =>
    if !v then fail .errPrecond s
    else
      let fc := s.grp.fc.toNat + fhSize + s.fh.len.toNat
      if s.grp.size.toNat < fc + fhSize then fail .noFrame s
      else finish .ok 1#32 (bindCurrent fc modeWrite (s.setGroup { s.grp with frames := s.grp.frames + 1 }))

/-- Where G.NEXT starts to scan: past the current frame by its size if it is Valid, else by one byte (R184). -/
def scanStart (s : State) (v : Bool) : Nat :=
  s.grp.fc.toNat + if v then fhSize + s.fh.len.toNat else 1

/-- The scan of G.NEXT from its start (R184). -/
def nextStop (s : State) (v : Bool) : ScanStop :=
  scanNext s.params s.mem s.grp.size.toNat s.grp.size.toNat (scanStart s v)

/-- G.NEXT (R184). -/
def execGNext (s : State) : Outcome :=
  whenGroup [groupRead] s <| withViewValid s fun v =>
    match nextStop s v with
    | .sentinel p => finish .noFrame 0#32 (bindCurrent p modeRead s)
    | .frame p => finish .ok 1#32 (bindCurrent p modeRead s)
    | .bufferEnd => finish .noFrame 0#32 s

/-- The group header G.TRAILER fills (R185): GH_VERS stays, and hcrc is computed with hcrc zero. -/
def trailerHeader (s : State) : GroupHeader :=
  let h : GroupHeader :=
    { s.gh with
      magic := groupMagic
      tsSec := s.timeSec
      tsNsec := s.timeNsec
      headerLen := BitVec.ofNat 5 ghSize
      numFrames := s.grp.frames
      hcrc := 0 }
  { h with hcrc := groupCrc s.params h }

/-- G.TRAILER (R185): the sentinel at G_FC, then the group header at 0; the view, G_FC and G_FRAMES stay. -/
def execGTrailer (s : State) : Outcome :=
  whenGroup [groupWrite] s <| access s.grp.fc.toNat fhSize <|
    finish .ok 1#32
      ((s.setGh (trailerHeader s)).setMem
        ((s.mem.writeBytes s.grp.fc.toNat (serFH sentinelHeader)).writeBytes 0 (serGH (trailerHeader s))))

/-- G.HDRVALID (R186). -/
def execGHdrvalid (s : State) : Outcome :=
  whenGroup [groupRead, groupWrite] s <| finish .ok (boolResult (groupHeaderValid s.params s.gh)) s

/-- The size G.CALCSIZE recovers (R187). -/
def recoveredSize (s : State) : Nat :=
  if groupHeaderValid s.params s.gh then
    scanSize s.params s.mem s.grp.size.toNat s.gh.numFrames.toNat s.grp.size.toNat ghSize 0 ghSize
  else 0

/-- G.CALCSIZE (R187): changes nothing but STATUS and RESULT. -/
def execGCalcsize (s : State) : Outcome :=
  whenGroup [groupRead, groupWrite] s <| finish .ok (natResult (recoveredSize s)) s

end Sys2Proof.Machine
end

