-- ==== Sys2Proof/Machine/Stuffing.lean ====
section
/-! DEFINITION. The byte-stuffing encoder and the destuffing decoder (42_stuffing.md rules R160 to R163). -/

namespace Sys2Proof.Machine

/-- The stuffing scan of R162 over the bytes that remain: the output and the number of escape bytes inserted. Leftmost-first and
non-overlapping (R161). Each turn consumes a byte, so `fuel` may be any number from the length of the input on. -/
def stuffScan (p : List Byte) (e : Byte) : Nat → List Byte → List Byte × Nat
  | 0, _ => ([], 0)
  | _ + 1, [] => ([], 0)
  | fuel + 1, b :: rest =>
    if p.isPrefixOf (b :: rest) then
      let r := stuffScan p e fuel ((b :: rest).drop p.length)
      (p ++ e :: r.1, r.2 + 1)
    else
      let r := stuffScan p e fuel rest
      (b :: r.1, r.2)

/-- The destuffing scan of R163 over the bytes that remain: the output and the number of escape bytes removed, or none where a
matched P is not followed by E (the payload's end included). -/
def destuffScan (p : List Byte) (e : Byte) : Nat → List Byte → Option (List Byte × Nat)
  | 0, _ => some ([], 0)
  | _ + 1, [] => some ([], 0)
  | fuel + 1, b :: rest =>
    if p.isPrefixOf (b :: rest) then
      match (b :: rest).drop p.length with
      | [] => none
      | x :: tail =>
        if x = e then (destuffScan p e fuel tail).map fun r => (p ++ r.1, r.2 + 1) else none
    else (destuffScan p e fuel rest).map fun r => (b :: r.1, r.2)

/-- The whole stuffing transform of a payload (R162). -/
def stuffBytes (p : List Byte) (e : Byte) (src : List Byte) : List Byte × Nat := stuffScan p e src.length src

/-- The whole destuffing transform of a payload (R163). -/
def destuffBytes (p : List Byte) (e : Byte) (src : List Byte) : Option (List Byte × Nat) :=
  destuffScan p e src.length src

/-- F.STUFF (R162): the written payload, overflow detected before any write, no mode check. -/
def execFStuff (s : State) : Outcome :=
  whenBound s <|
    if !s.avoidOk then finish .errStuff minusOne s
    else access s.payloadBase s.fv.cursor.toNat <|
      let out := stuffBytes s.avoidHead s.escapeByte (s.mem.readBytes s.payloadBase s.fv.cursor.toNat)
      let n := s.fv.cursor.toNat + out.2
      if s.fv.size.toNat < fhSize + n then finish .errStuff minusOne s
      else access s.payloadBase n <|
        finish .ok (natResult out.2) ((s.setMem (s.mem.writeBytes s.payloadBase out.1)).setCursor n)

/-- F.DESTUFF (R163): the declared payload of a Valid frame; the freed tail bytes, the headers and the cursor stay. -/
def execFDestuff (s : State) : Outcome :=
  whenBound s <|
    if !s.avoidOk then finish .errStuff minusOne s
    else withViewValid s fun v =>
      if !v then finish .errPrecond minusOne s
      else
        match destuffBytes s.avoidHead s.escapeByte (s.mem.readBytes s.payloadBase s.fh.len.toNat) with
        | none => finish .errStuff minusOne s
        | some out => finish .ok (natResult out.2) (s.setMem (s.mem.writeBytes s.payloadBase out.1))

end Sys2Proof.Machine
end

