-- ==== Sys2Proof/Machine/Dispatch.lean ====
section
/-! DEFINITION. The meaning of each command. -/

namespace Sys2Proof.Machine

def exec (i : Instr) (s : State) : Host.Outcome State Fault Refusal :=
  match i with
  | .fBind base size mode => Sys2Proof.Machine.execFBind base size mode s
  | .fWrdata width => Sys2Proof.Machine.execFWrdata width s
  | .fRddata width => Sys2Proof.Machine.execFRddata width s
  | .fWrhdr id => Sys2Proof.Machine.execFWrhdr id s
  | .fIsvalid => Sys2Proof.Machine.execFIsvalid s
  | .fIseog => Sys2Proof.Machine.execFIseog s
  | .fStuff => Sys2Proof.Machine.execFStuff s
  | .fDestuff => Sys2Proof.Machine.execFDestuff s
  | .fMsgsize => Sys2Proof.Machine.execFMsgsize s
  | .fProcsize => Sys2Proof.Machine.execFProcsize s
  | .gOpenw => Sys2Proof.Machine.execGOpenw s
  | .gOpenr size => Sys2Proof.Machine.execGOpenr size s
  | .gCommit => Sys2Proof.Machine.execGCommit s
  | .gNext => Sys2Proof.Machine.execGNext s
  | .gTrailer => Sys2Proof.Machine.execGTrailer s
  | .gHdrvalid => Sys2Proof.Machine.execGHdrvalid s
  | .gCalcsize => Sys2Proof.Machine.execGCalcsize s

end Sys2Proof.Machine
end

