-- ==== Sys2Proof/Machine/HostPort.lean ====
section
/-! DEFINITION. The host port: the register map (10_state.md rule R23), the five transactions (rule R44) and reset
(70_reset_and_hazards.md rule R240). -/

namespace Sys2Proof.Machine

/-- The register a number addresses, if any (R23). -/
def regOf (num : RegNum) : Option Reg :=
  if h : 0x10 ≤ num.toNat ∧ num.toNat < 0x20 then some (.avoid ⟨num.toNat - 0x10, by omega⟩)
  else
    match num.toNat with
    | 0x00 => some .cmd
    | 0x01 => some .status
    | 0x02 => some .result
    | 0x03 => some .dataIn
    | 0x04 => some .dataOut
    | 0x05 => some .avoidLen
    | 0x06 => some .timeSec
    | 0x07 => some .timeNsec
    | 0x20 => some .fvBound
    | 0x21 => some .fvMode
    | 0x22 => some .fvBase
    | 0x23 => some .fvSize
    | 0x24 => some .fvCursor
    | 0x25 => some .fhMagic
    | 0x26 => some .fhId
    | 0x27 => some .fhLen
    | 0x28 => some .fhCrc
    | 0x30 => some .gMode
    | 0x31 => some .gSize
    | 0x32 => some .gFc
    | 0x33 => some .gFrames
    | 0x34 => some .ghMagic
    | 0x35 => some .ghVers
    | 0x36 => some .ghTsSec
    | 0x37 => some .ghTsNsec
    | 0x38 => some .ghNumFrames
    | 0x39 => some .ghHeaderLen
    | 0x3A => some .ghHcrc
    | _ => none

/-- Whether the host may read a register: every one but CMD (R23). -/
def Reg.readable : Reg → Bool
  | .cmd => false
  | _ => true

/-- A register's value, zero-extended to the port's 64 bits. DESIGN CHOICE, unsafe (log entry 4). -/
def getReg (s : State) : Reg → BitVec 64
  | .cmd => s.cmd
  | .status => s.status.setWidth 64
  | .result => s.result.setWidth 64
  | .dataIn => s.dataIn
  | .dataOut => s.dataOut
  | .avoidLen => s.avoidLen.setWidth 64
  | .timeSec => s.timeSec.setWidth 64
  | .timeNsec => s.timeNsec.setWidth 64
  | .avoid k => s.avoid[k].setWidth 64
  | .fvBound => s.fv.bound.setWidth 64
  | .fvMode => s.fv.mode.setWidth 64
  | .fvBase => s.fv.base.setWidth 64
  | .fvSize => s.fv.size.setWidth 64
  | .fvCursor => s.fv.cursor.setWidth 64
  | .fhMagic => s.fh.magic.setWidth 64
  | .fhId => s.fh.id.setWidth 64
  | .fhLen => s.fh.len.setWidth 64
  | .fhCrc => s.fh.crc.setWidth 64
  | .gMode => s.grp.mode.setWidth 64
  | .gSize => s.grp.size.setWidth 64
  | .gFc => s.grp.fc.setWidth 64
  | .gFrames => s.grp.frames.setWidth 64
  | .ghMagic => s.gh.magic.setWidth 64
  | .ghVers => s.gh.vers.setWidth 64
  | .ghTsSec => s.gh.tsSec.setWidth 64
  | .ghTsNsec => s.gh.tsNsec.setWidth 64
  | .ghNumFrames => s.gh.numFrames.setWidth 64
  | .ghHeaderLen => s.gh.headerLen.setWidth 64
  | .ghHcrc => s.gh.hcrc.setWidth 64

/-- HOST.RD num: a register without read access, and a number not in the map, read 0 (R23). -/
def readReg (num : RegNum) (s : State) : BitVec 64 :=
  match regOf num with
  | some r => if r.readable then getReg s r else 0
  | none => 0

/-- HOST.WR num, v to a data register: masked to the register's width; a register without write access, and a number not in the
map, ignore it (R23). CMD is written by `hostPort`, which issues the command. -/
def writeReg (num : RegNum) (v : BitVec 64) (s : State) : State :=
  match regOf num with
  | some .dataIn => { s with dataIn := v }
  | some .avoidLen => { s with avoidLen := v.setWidth 8 }
  | some .timeSec => { s with timeSec := v.setWidth 32 }
  | some .timeNsec => { s with timeNsec := v.setWidth 32 }
  | some (.avoid k) => { s with avoid := s.avoid.set k (v.setWidth 8) }
  | _ => s

/-- HOST.MEMRD a, n: out of range it reads zeros (R44). -/
def hostMemRead (a n : Nat) (s : State) : List Byte :=
  if a + n ≤ memSize then s.mem.readBytes a n else List.replicate n 0

/-- HOST.MEMWR a, bytes: out of range it writes nothing (R44). -/
def hostMemWrite (a : Nat) (bs : List Byte) (s : State) : State :=
  if a + bs.length ≤ memSize then s.setMem (s.mem.writeBytes a bs) else s

/-- The reset transaction (R240): every register of the map takes its reset value; M, the instance's parameters (R242) and the
transactions still offered stay. DESIGN CHOICE for the transactions (log entry 8). -/
def resetBlock (s : State) : State :=
  { State.reset with mem := s.mem, params := s.params, inbox := s.inbox }

/-- A command word is executed, or is illegal and changes only STATUS and RESULT (30_encoding.md rules R77 and R79). -/
def issue (w : CommandWord) (s : State) : Outcome :=
  match decode w with
  | .ok i => exec i s
  | .error _ => fail .errIllegal s

/-- One host transaction, completed before the next is accepted (R44). -/
def hostPort (t : Transaction) (s : State) : Outcome :=
  match t with
  | .rd num => .next (s.setReply (.reg (readReg num s)))
  | .wr num v => if regOf num = some .cmd then issue v (s.setCmd v) else .next (writeReg num v s)
  | .memRd a n => .next (s.setReply (.bytes (hostMemRead a n s)))
  | .memWr a bs => .next (hostMemWrite a bs s)
  | .reset => .next (resetBlock s)

/-- What the block does next: the first transaction the host offers, or nothing while none is offered (60_exceptions.md rule
R236). -/
def stepPort (s : State) : Outcome :=
  match s.inbox with
  | [] => .next s
  | t :: rest => hostPort t (s.accept rest)

/-- The host's write of a command word to CMD, offered first. -/
def offerCommand (w : CommandWord) (s : State) : State :=
  { s with inbox := .wr 0x00#8 w :: s.inbox }

end Sys2Proof.Machine
end

