-- ==== Sys2Proof/Machine/Step.lean ====
section
/-! DEFINITION. One step of the machine: one host transaction (10_state.md rule R44), a command write among them executed to
completion (rule R20). DEDUCED (log entry 6). -/

namespace Sys2Proof.Machine

/-- One step. There is no program counter and no fetch from M (00_scope.md rule R12, 20_memory.md rule R62): the next command is
what the host writes to CMD. -/
def step (s : State) : Host.Outcome State Fault Refusal := stepPort s

/-- s with the host offering a write of the command word w to CMD before anything else it offers, so that the next step runs that
command. -/
def State.withFetchWord (s : State) (nbits w : Nat) : State :=
  offerCommand (BitVec.ofNat 64 (w % 2 ^ nbits)) s

end Sys2Proof.Machine
end

