-- ==== Sys2Proof/Safety.lean ====
section
/-! DEFINITION. What counts as a safe state, and the terms the statements about the machine are written in: the invariants the
spec gives, the wire formats byte by byte, the validity of a frame, the completion-code table, and the stuffing and scanning
rules as relations without a fuel. -/

namespace Sys2Proof.Machine

/-! ### The invariant -/

/-- While a view is bound (10_state.md rules R31, R32, R33): a legal mode, 5 to 2052 bytes inside M, the cursor inside the view. -/
abbrev ViewOk (s : State) : Prop :=
  s.fv.bound = 1#1 →
    s.fv.mode ≠ 0#2 ∧ 5 ≤ s.fv.size.toNat ∧ s.fv.size.toNat ≤ 2052 ∧ s.fv.base.toNat + s.fv.size.toNat ≤ memSize
      ∧ s.fv.cursor.toNat + 5 ≤ s.fv.size.toNat

/-- The group's registers (10_state.md rules R35 to R38): a legal mode; while a group is open the view is bound at the frame
cursor with the size that is left, capped, and the frame cursor is past the group header with room for a header; a read group
has counted no frame and its view reads; a write group is all of M. -/
abbrev GroupOk (s : State) : Prop :=
  s.grp.mode ≠ 3#2
    ∧ (s.grp.mode ≠ groupNone →
        s.fv.bound = 1#1 ∧ s.fv.base = s.grp.fc
          ∧ s.fv.size.toNat = min (s.grp.size.toNat - s.grp.fc.toNat) 2052
          ∧ 13 ≤ s.grp.fc.toNat ∧ s.grp.fc.toNat + 5 ≤ s.grp.size.toNat)
    ∧ (s.grp.mode = groupRead → s.grp.frames = 0 ∧ s.fv.mode = modeRead)
    ∧ (s.grp.mode = groupWrite → s.grp.size.toNat = 65535 ∧ s.fv.mode = modeWrite)

/-- The invariant of the block. -/
structure Inv (s : State) : Prop where
  /-- M is in canonical form, so no address outside it is listed. -/
  mem : s.mem.wf = true
  view : ViewOk s
  group : GroupOk s
  /-- STATUS is one of the nine codes (60_exceptions.md rule R220). -/
  status : s.status.toNat ≤ 8
  /-- GROUP_MIN_SIZE is at least 18 (43_group.md rule R182). -/
  params : 18 ≤ s.params.groupMinSize

/-! ### The wire formats (30_encoding.md rules R80 and R81), byte by byte -/

/-- The five header bytes of a frame (R80). -/
def wireFrameHeader (h : FrameHeader) : List Byte :=
  [ h.magic,
    h.id ++ h.len.extractLsb' 10 1,
    h.len.extractLsb' 2 8,
    h.len.extractLsb' 0 2 ++ h.crc.extractLsb' 8 6,
    h.crc.extractLsb' 0 8 ]

/-- The thirteen header bytes of a group (R81). -/
def wireGroupHeader (h : GroupHeader) : List Byte :=
  [ h.magic, h.vers,
    h.tsSec.extractLsb' 24 8, h.tsSec.extractLsb' 16 8, h.tsSec.extractLsb' 8 8, h.tsSec.extractLsb' 0 8,
    h.tsNsec.extractLsb' 24 8, h.tsNsec.extractLsb' 16 8, h.tsNsec.extractLsb' 8 8, h.tsNsec.extractLsb' 0 8,
    h.numFrames.extractLsb' 3 8,
    h.numFrames.extractLsb' 0 3 ++ h.headerLen,
    h.hcrc ]

/-! ### Validity -/

/-- The frame CRC over the wire bytes (40_fields_crc.md rule R107). -/
def wireFrameCrc (pr : Params) (m : Memory) (id : BitVec 7) (len : BitVec 11) (base : Nat) : BitVec 14 :=
  crc pr.frameCrcPoly
    (wireFrameHeader { magic := 0x7E, id := id, len := len, crc := 0 } ++ m.readBytes (base + 5) len.toNat)
    pr.frameCrcInit

/-- The group header CRC over the wire bytes (R108). -/
def wireGroupCrc (pr : Params) (h : GroupHeader) : BitVec 8 :=
  crc pr.groupCrcPoly (wireGroupHeader { h with hcrc := 0 }) pr.groupCrcInit

/-- A header is that of a valid frame at base in a range of size bytes (R109). -/
def ValidAt (pr : Params) (m : Memory) (h : FrameHeader) (base size : Nat) : Prop :=
  h.magic = 0x7E#8 ∧ 5 + h.len.toNat ≤ size ∧ 5 + h.len.toNat ≤ 2052 ∧ wireFrameCrc pr m h.id h.len base = h.crc

/-- The bound view holds a valid frame (R109). -/
def ValidView (s : State) : Prop := ValidAt s.params s.mem s.fh s.fv.base.toNat s.fv.size.toNat

/-- The header of the End-Of-Group frame (R110). -/
def EogHeader (h : FrameHeader) : Prop := h.magic = 0x7E#8 ∧ h.id = 127#7 ∧ h.len = 0#11 ∧ h.crc = 0#14

/-- The five bytes of M at p are the wire form of a header. -/
def HeaderAt (m : Memory) (p : Nat) (h : FrameHeader) : Prop := wireFrameHeader h = m.readBytes p 5

/-- The group header is valid (R112). -/
def ValidGroupHeader (pr : Params) (h : GroupHeader) : Prop := h.magic = 0xAA#8 ∧ wireGroupCrc pr h = h.hcrc

/-- Offset p of a group of gsize bytes holds something the scanner stops at: a header with the magic byte, whole inside the
group, that is the sentinel's or a valid frame's (43_group.md rule R184). -/
def StopsAt (pr : Params) (m : Memory) (gsize p : Nat) (h : FrameHeader) : Prop :=
  p + 5 ≤ gsize ∧ HeaderAt m p h ∧ (EogHeader h ∨ ValidAt pr m h p (min (gsize - p) 2052))

/-- Where G.NEXT starts to scan: past the current frame by its size if it is valid, else by one byte (R184). -/
def ScanStart (s : State) (p : Nat) : Prop :=
  (ValidView s ∧ p = s.grp.fc.toNat + (5 + s.fh.len.toNat)) ∨ (¬ ValidView s ∧ p = s.grp.fc.toNat + 1)

/-- From p to q, M holds n valid frames back to back, none of them an End-Of-Group frame (30_encoding.md rule R83). -/
inductive FrameChain (pr : Params) (m : Memory) : Nat → Nat → Nat → Prop where
  | nil (p : Nat) : FrameChain pr m p p 0
  | cons (p q n : Nat) (h : FrameHeader) (at_p : HeaderAt m p h) (valid : ValidAt pr m h p (5 + h.len.toNat))
      (noEog : ¬ EogHeader h) (rest : FrameChain pr m (p + 5 + h.len.toNat) q n) : FrameChain pr m p q (n + 1)

/-! ### Completion codes (60_exceptions.md rule R220) -/

/-- The frame commands that begin with the unbound check (41_frame.md rule R131). -/
def checksBound : Instr → Bool
  | .fWrdata _ | .fRddata _ | .fWrhdr _ | .fIsvalid | .fIseog | .fStuff | .fDestuff | .fMsgsize | .fProcsize => true
  | .fBind _ _ _ | .gOpenw | .gOpenr _ | .gCommit | .gNext | .gTrailer | .gHdrvalid | .gCalcsize => false

/-- The commands that bind the frame view (41_frame.md rule R140). -/
def bindsView : Instr → Bool
  | .fBind _ _ _ | .gOpenw | .gOpenr _ | .gCommit | .gNext => true
  | .fWrdata _ | .fRddata _ | .fWrhdr _ | .fIsvalid | .fIseog | .fStuff | .fDestuff | .fMsgsize | .fProcsize
  | .gTrailer | .gHdrvalid | .gCalcsize => false

/-- The modes a group command accepts, with its other operands out of account (43_group.md rule R180); none where the check is
not made. -/
def groupModes : Instr → Option (List (BitVec 2))
  | .gCommit | .gTrailer => some [groupWrite]
  | .gNext => some [groupRead]
  | .gHdrvalid | .gCalcsize => some [groupRead, groupWrite]
  | .gOpenw | .gOpenr _ | .fBind _ _ _ | .fWrdata _ | .fRddata _ | .fWrhdr _ | .fIsvalid | .fIseog | .fStuff
  | .fDestuff | .fMsgsize | .fProcsize => none

/-- The "raised by" column of R220, for decoded commands. -/
def raisedBy (st : Status) (i : Instr) : Bool :=
  match st, i with
  | .ok, _ => true
  | .errIllegal, _ => false
  | .errConstruct, .fBind _ _ _ | .errConstruct, .gOpenr _ => true
  | .errCapability, .fWrdata _ | .errCapability, .fRddata _ | .errCapability, .gCommit | .errCapability, .gNext
  | .errCapability, .gTrailer | .errCapability, .gHdrvalid | .errCapability, .gCalcsize => true
  | .errBounds, .fWrdata _ | .errBounds, .fRddata _ | .errBounds, .fWrhdr _ => true
  | .errUnbound, i => checksBound i
  | .errStuff, .fStuff | .errStuff, .fDestuff => true
  | .noFrame, .gCommit | .noFrame, .gNext => true
  | .errPrecond, .gCommit | .errPrecond, .fDestuff => true
  | _, _ => false

/-- The RESULT column of R220, for a code that is not OK. -/
def failResult (st : Status) (i : Instr) : BitVec 32 :=
  match st, i with
  | .errStuff, _ => 0xFFFFFFFF#32
  | .errPrecond, .fDestuff => 0xFFFFFFFF#32
  | _, _ => 0#32

/-! ### Stuffing and destuffing as relations (42_stuffing.md rules R161 to R163) -/

/-- src stuffs to out with k escape bytes inserted. -/
inductive Stuffed (p : List Byte) (e : Byte) : List Byte → List Byte → Nat → Prop where
  | nil : Stuffed p e [] [] 0
  | hit (rest out : List Byte) (k : Nat) : Stuffed p e rest out k → Stuffed p e (p ++ rest) (p ++ e :: out) (k + 1)
  | miss (b : Byte) (rest out : List Byte) (k : Nat) :
      ¬ p <+: (b :: rest) → Stuffed p e rest out k → Stuffed p e (b :: rest) (b :: out) k

/-- src destuffs to out with r escape bytes removed; a src that is malformed destuffs to nothing. -/
inductive Destuffed (p : List Byte) (e : Byte) : List Byte → List Byte → Nat → Prop where
  | nil : Destuffed p e [] [] 0
  | hit (rest out : List Byte) (r : Nat) : Destuffed p e rest out r → Destuffed p e (p ++ e :: rest) (p ++ out) (r + 1)
  | miss (b : Byte) (rest out : List Byte) (r : Nat) :
      ¬ p <+: (b :: rest) → Destuffed p e rest out r → Destuffed p e (b :: rest) (b :: out) r

/-! ### Size recovery as a relation (43_group.md rule R187) -/

/-- The loop of G.CALCSIZE from offset p, count frames and the given size on ends with a result. -/
inductive Recovers (pr : Params) (m : Memory) (gsize n : Nat) : Nat → Nat → Nat → Nat → Prop where
  | countSentinel (p size : Nat) (h : FrameHeader) :
      p + 5 ≤ gsize → HeaderAt m p h → EogHeader h → Recovers pr m gsize n p n size (p + 5)
  | countPlain (p size : Nat) :
      ¬ (p + 5 ≤ gsize ∧ ∃ h, HeaderAt m p h ∧ EogHeader h) → Recovers pr m gsize n p n size size
  | bufferEnd (p count size : Nat) : count ≠ n → gsize < p + 5 → Recovers pr m gsize n p count size size
  | noMagic (p count size r : Nat) :
      count ≠ n → p + 5 ≤ gsize → m.readByte p ≠ 0x7E#8 → Recovers pr m gsize n (p + 1) count size r →
        Recovers pr m gsize n p count size r
  | sentinel (p count size : Nat) (h : FrameHeader) :
      count ≠ n → p + 5 ≤ gsize → HeaderAt m p h → EogHeader h → Recovers pr m gsize n p count size (p + 5)
  | frame (p count size r : Nat) (h : FrameHeader) :
      count ≠ n → p + 5 ≤ gsize → HeaderAt m p h → ¬ EogHeader h → ValidAt pr m h p (min (gsize - p) 2052) →
        Recovers pr m gsize n (p + 5 + h.len.toNat) (count + 1) (p + 5 + h.len.toNat) r →
        Recovers pr m gsize n p count size r
  | falseMagic (p count size r : Nat) (h : FrameHeader) :
      count ≠ n → p + 5 ≤ gsize → m.readByte p = 0x7E#8 → HeaderAt m p h → ¬ EogHeader h →
        ¬ ValidAt pr m h p (min (gsize - p) 2052) → Recovers pr m gsize n (p + 1) count size r →
        Recovers pr m gsize n p count size r

/-! ### Sequences of payload accesses (41_frame.md rule R141) -/

/-- F.WRDATA of each width with DATA_IN at each value, in order; none where one of them does not end OK. -/
def writeValues : List (BitVec 8 × BitVec 64) → State → Option State
  | [], s => some s
  | (w, v) :: rest, s =>
    match exec (.fWrdata w) { s with dataIn := v } with
    | .next t => if t.status = Status.ok.code then writeValues rest t else none
    | _ => none

/-- F.RDDATA of each width, in order, with the values DATA_OUT takes; none where one of them does not end OK. -/
def readValues : List (BitVec 8) → State → Option (List (BitVec 64) × State)
  | [], s => some ([], s)
  | w :: rest, s =>
    match exec (.fRddata w) s with
    | .next t =>
      if t.status = Status.ok.code then (readValues rest t).map fun r => (t.dataOut :: r.1, r.2) else none
    | _ => none

end Sys2Proof.Machine
end

