-- ==== Sys2Proof/Certificates/Slice0/Obligations.lean ====
section
/-! DEFINITION. The statements for the provers. Each docstring names the rule of spec/ it formalises. -/

open Sys2Proof Sys2Proof.Machine

/-! ### Commands, decoding and encoding -/

/-- A host write of a command word runs the decoded command to completion in one step (10_state.md rules R20 and R44): CMD takes
the word, the transaction is gone from those offered, no answer is pending, and the rest is exec. With no transaction offered
the block holds all its state (60_exceptions.md rule R236). The inbox and the reply are the model's fields (log entry 3), and so
is what CMD holds (log entry 7). -/
def Obligations.StepRunsTheDecodedCommand : Prop :=
  ∀ (s : State),
    (∀ (w : CommandWord) (rest : List Transaction) (i : Instr),
      s.inbox = .wr 0x00#8 w :: rest → decode w = .ok i →
        step s = exec i { s with inbox := rest, reply := .none, cmd := w }) ∧
    (s.inbox = [] → step s = .next s)

/-- The encoding examples of 30_encoding.md rule R85, both ways. -/
def Obligations.EncodingExamplesDecode : Prop :=
  ∀ p ∈ [((0x0000002001000301#64 : CommandWord), Instr.fBind 0x0100#16 32#16 3#8),
         (0x0000000000000402#64, .fWrdata 4#8),
         (0x0000000000000A04#64, .fWrhdr 10#7),
         (0x0000000000230011#64, .gOpenr 35#16),
         (0x0000000000000012#64, .gCommit)],
    decode p.1 = .ok p.2 ∧ encode p.2 = p.1

/-- Decode and encode agree: no bit of an operand is dropped, for every command (30_encoding.md rules R70 to R75). -/
def Obligations.DecodeOfEncodeIsTheCommand : Prop :=
  ∀ i : Instr, i.wellFormed = true → decode (encode i) = .ok i

/-- Every word that decodes is the encoding of what it decodes to, but for bit 15 of an F.WRHDR word, which the masking of its
id drops (30_encoding.md rules R71, R74 and R79). -/
def Obligations.EncodeOfDecodeIsTheWord : Prop :=
  ∀ (w : CommandWord) (i : Instr), decode w = .ok i →
    i.wellFormed = true ∧
      encode i = if w.extractLsb' 0 8 = 0x04#8 then w &&& 0xFFFFFFFFFFFF7FFF#64 else w

/-- A word that matches a row of the opcode map under its mask, with a legal width in format W, is executed as that row's
command; every other word is illegal (30_encoding.md rule R79). That CMD takes the word first is the model's reading (log entry
7), and the inbox and the reply are the model's fields (log entry 3): these clauses are no rule of the spec. -/
def Obligations.EveryWordExecutesOrIsIllegal : Prop :=
  ∀ (s : State) (w : CommandWord) (rest : List Transaction),
    s.inbox = .wr 0x00#8 w :: rest →
      (∀ r ∈ opcodeMap, w &&& r.format.mask = r.mtch →
        (r.format = .w → w.extractLsb' 8 8 ∈ [1#8, 2#8, 4#8, 8#8]) →
          ∃ i, decode w = .ok i ∧ i.mnemonic = r.mnemonic ∧
            step s = exec i { s with inbox := rest, reply := .none, cmd := w }) ∧
      ((¬ ∃ r ∈ opcodeMap, w &&& r.format.mask = r.mtch ∧
          (r.format = .w → w.extractLsb' 8 8 ∈ [1#8, 2#8, 4#8, 8#8])) →
        step s = .next { s with inbox := rest, reply := .none, cmd := w, status := 1, result := 0 })

/-- An illegal command changes no block state but STATUS = ERR_ILLEGAL and RESULT = 0, and the reserved opcodes are all illegal
(30_encoding.md rule R77). That CMD holds the word the host wrote is the model's reading (log entry 7), and the inbox and the
reply are the model's fields (log entry 3): these clauses are no rule of the spec. -/
def Obligations.IllegalCommandChangesOnlyStatusAndResult : Prop :=
  ∀ (s : State) (w : CommandWord) (rest : List Transaction),
    s.inbox = .wr 0x00#8 w :: rest →
      ((∀ i, decode w ≠ .ok i) →
        step s = .next { s with inbox := rest, reply := .none, cmd := w, status := 1, result := 0 }) ∧
      ((w.extractLsb' 0 8).toNat = 0x00 ∨ (0x0B ≤ (w.extractLsb' 0 8).toNat ∧ (w.extractLsb' 0 8).toNat ≤ 0x0F) ∨
          0x17 ≤ (w.extractLsb' 0 8).toNat → ∀ i, decode w ≠ .ok i)

/-! ### The host port -/

/-- HOST.RD by the register map of 10_state.md rule R23: each readable register under its number, 0 for CMD and for every number
not in the map; nothing else changes. The value's zero-extension to 64 bits is the model's choice (log entry 4), and the inbox
and the reply are the model's fields (log entry 3). -/
def Obligations.HostReadFollowsTheRegisterMap : Prop :=
  ∀ (s : State) (num : RegNum) (rest : List Transaction),
    s.inbox = .rd num :: rest →
      ∃ v : BitVec 64, step s = .next { s with inbox := rest, reply := .reg v } ∧
        (∀ p ∈ [(0x00, 0), (0x01, s.status.toNat), (0x02, s.result.toNat), (0x03, s.dataIn.toNat),
                (0x04, s.dataOut.toNat), (0x05, s.avoidLen.toNat), (0x06, s.timeSec.toNat),
                (0x07, s.timeNsec.toNat), (0x20, s.fv.bound.toNat), (0x21, s.fv.mode.toNat),
                (0x22, s.fv.base.toNat), (0x23, s.fv.size.toNat), (0x24, s.fv.cursor.toNat),
                (0x25, s.fh.magic.toNat), (0x26, s.fh.id.toNat), (0x27, s.fh.len.toNat),
                (0x28, s.fh.crc.toNat), (0x30, s.grp.mode.toNat), (0x31, s.grp.size.toNat),
                (0x32, s.grp.fc.toNat), (0x33, s.grp.frames.toNat), (0x34, s.gh.magic.toNat),
                (0x35, s.gh.vers.toNat), (0x36, s.gh.tsSec.toNat), (0x37, s.gh.tsNsec.toNat),
                (0x38, s.gh.numFrames.toNat), (0x39, s.gh.headerLen.toNat), (0x3A, s.gh.hcrc.toNat)],
          num.toNat = p.1 → v.toNat = p.2) ∧
        (∀ k : Fin 16, num.toNat = 0x10 + k.val → v.toNat = s.avoid[k].toNat) ∧
        (num.toNat ∈ [0x08, 0x09, 0x0A, 0x0B, 0x0C, 0x0D, 0x0E, 0x0F, 0x29, 0x2A, 0x2B, 0x2C, 0x2D, 0x2E, 0x2F]
            ∨ 0x3B ≤ num.toNat → v = 0)

/-- HOST.WR to a data register by the map of 10_state.md rule R23: masked to the register's width; a register without write
access, and a number not in the map, ignore it. (A write to CMD issues a command: StepRunsTheDecodedCommand.) The 64 bits a
write carries are the model's choice (log entry 4), and the inbox and the reply are the model's fields (log entry 3). -/
def Obligations.HostWriteIsMaskedOrIgnored : Prop :=
  ∀ (s : State) (num : RegNum) (v : BitVec 64) (rest : List Transaction),
    s.inbox = .wr num v :: rest → num ≠ 0x00#8 →
      ∃ t, step s = .next t ∧
        t = { s with
              inbox := rest
              reply := .none
              dataIn := t.dataIn
              avoidLen := t.avoidLen
              timeSec := t.timeSec
              timeNsec := t.timeNsec
              avoid := t.avoid } ∧
        t.dataIn = (if num = 0x03#8 then v else s.dataIn) ∧
        t.avoidLen.toNat = (if num = 0x05#8 then v.toNat % 2 ^ 8 else s.avoidLen.toNat) ∧
        t.timeSec.toNat = (if num = 0x06#8 then v.toNat % 2 ^ 32 else s.timeSec.toNat) ∧
        t.timeNsec.toNat = (if num = 0x07#8 then v.toNat % 2 ^ 32 else s.timeNsec.toNat) ∧
        ∀ k : Fin 16, t.avoid[k].toNat =
          if num.toNat = 0x10 + k.val then v.toNat % 2 ^ 8 else s.avoid[k].toNat

/-- HOST.MEMWR and HOST.MEMRD (10_state.md rule R44): in range, the bytes written, and the bytes read; out of range, nothing is
written and zeros are read. That addresses and lengths have no width, so that an out-of-range read answers exactly as many zeros
as it asked for, is the model's choice (log entry 9), and the inbox and the reply are the model's fields (log entry 3). -/
def Obligations.HostMemoryTransactions : Prop :=
  ∀ (s : State) (rest : List Transaction), Inv s →
    (∀ (a : Nat) (bs : List Byte), s.inbox = .memWr a bs :: rest →
      ∃ t, step s = .next t ∧ t = { s with inbox := rest, reply := .none, mem := t.mem } ∧
        (a + bs.length ≤ memSize → t.mem.readBytes a bs.length = bs) ∧
        ∀ x, memSize < a + bs.length ∨ x < a ∨ a + bs.length ≤ x → t.mem.readByte x = s.mem.readByte x) ∧
    (∀ (a n : Nat), s.inbox = .memRd a n :: rest →
      ∃ bs, step s = .next { s with inbox := rest, reply := .bytes bs } ∧ bs.length = n ∧
        ∀ j, j < n → bs.getD j 0 = if a + n ≤ memSize then s.mem.readByte (a + j) else 0)

/-- The reset transaction (70_reset_and_hazards.md rule R240, 10_state.md rule R42), in every state: every register 0, FV_BOUND
0 and G_MODE NONE among them; M and the parameters (R242) do not change. That the transactions still offered stay and that no
answer is pending is the model's choice (log entry 8); the inbox and the reply are the model's fields (log entry 3). -/
def Obligations.ResetZeroesRegistersAndKeepsMemory : Prop :=
  ∀ (s : State) (rest : List Transaction), s.inbox = .reset :: rest →
    ∃ t, step s = .next t ∧
      t = { cmd := 0, status := 0, result := 0, dataIn := 0, dataOut := 0, avoidLen := 0, avoid := t.avoid,
            timeSec := 0, timeNsec := 0,
            fv := { bound := 0, mode := 0, base := 0, size := 0, cursor := 0 },
            fh := { magic := 0, id := 0, len := 0, crc := 0 },
            grp := { mode := 0, size := 0, fc := 0, frames := 0 },
            gh := { magic := 0, vers := 0, tsSec := 0, tsNsec := 0, numFrames := 0, headerLen := 0, hcrc := 0 },
            mem := s.mem, params := s.params, inbox := rest, reply := .none } ∧
      ∀ k : Fin 16, t.avoid[k] = 0

/-- Power-on behaves as reset (70_reset_and_hazards.md rule R240): State.reset is what the reset transaction leaves in any state
that has its memory, its parameters and nothing more offered. It says nothing of the contents of M (log entry 1). The
parameters, the inbox and the reply in State.reset are the model's choice (log entries 2, 3 and 8). -/
def Obligations.PowerOnIsTheResetState : Prop :=
  ∀ s : State, s.inbox = [.reset] → s.mem = State.reset.mem → s.params = State.reset.params →
    step s = .next State.reset

/-- Before any bind every frame command except F.BIND fails with ERR_UNBOUND, and while no group is open every group command
except G.OPENW and G.OPENR fails with ERR_CAPABILITY, with nothing else changed; the reset transaction leaves such a state
(10_state.md rule R43, 41_frame.md rule R131). -/
def Obligations.AfterResetFrameAndGroupCommandsFail : Prop :=
  ∀ (s : State) (i : Instr),
    (s.fv.bound = 0#1 → checksBound i = true → exec i s = .next { s with status := 5, result := 0 }) ∧
    (s.grp.mode = groupNone → (groupModes i).isSome = true → exec i s = .next { s with status := 3, result := 0 }) ∧
    (∀ rest, s.inbox = .reset :: rest → ∃ t, step s = .next t ∧ t.fv.bound = 0#1 ∧ t.grp.mode = groupNone)

/-- The group-mode check (43_group.md rule R180): in a mode a command does not accept it fails with ERR_CAPABILITY before anything
else, and in a mode it accepts it never ends so; G.OPENW and G.OPENR are accepted in any mode. -/
def Obligations.GroupModeCheckComesFirst : Prop :=
  ∀ (s : State),
    (s.grp.mode ≠ 2#2 → ∀ i ∈ [Instr.gCommit, .gTrailer], exec i s = .next { s with status := 3, result := 0 }) ∧
    (s.grp.mode ≠ 1#2 → exec .gNext s = .next { s with status := 3, result := 0 }) ∧
    (s.grp.mode ≠ 1#2 → s.grp.mode ≠ 2#2 →
      ∀ i ∈ [Instr.gHdrvalid, .gCalcsize], exec i s = .next { s with status := 3, result := 0 }) ∧
    (s.grp.mode = 2#2 → ∀ i ∈ [Instr.gCommit, .gTrailer], ∀ t, exec i s = .next t → t.status ≠ 3) ∧
    (s.grp.mode = 1#2 → ∀ t, exec .gNext s = .next t → t.status ≠ 3) ∧
    (s.grp.mode = 1#2 ∨ s.grp.mode = 2#2 →
      ∀ i ∈ [Instr.gHdrvalid, .gCalcsize], ∀ t, exec i s = .next t → t.status ≠ 3) ∧
    (∀ t, exec .gOpenw s = .next t → t.status ≠ 3) ∧
    (∀ size t, exec (.gOpenr size) s = .next t → t.status ≠ 3)

/-! ### The invariant and what holds of every step -/

/-- State.reset meets the invariant. -/
def Obligations.ResetMeetsInvariant : Prop := Inv State.reset

/-- Every step keeps the invariant (10_state.md rules R31 to R33 and R35 to R38, 60_exceptions.md rule R220): from every state
that meets it, whatever the host offers. -/
def Obligations.StepKeepsInvariant : Prop :=
  ∀ s t : State, Inv s → step s = .next t → Inv t

/-- Every engine access to M stays within [0, MEM_SIZE) (20_memory.md rule R58), so no step of a state that meets the invariant
stops: no fault and no refusal, whatever the host offers. The fault that is ruled out is the model's (log entry 5). -/
def Obligations.NoStepStops : Prop :=
  ∀ s : State, Inv s → ∃ t, step s = .next t

/-- The CRC parameters and GROUP_MIN_SIZE are fixed: they survive every step, reset among them (70_reset_and_hazards.md rule
R242). -/
def Obligations.ParametersNeverChange : Prop :=
  ∀ s t : State, step s = .next t → t.params = s.params

/-- The frame state machine (41_frame.md rule R140): FV_BOUND becomes 1 only by a bind that ends OK or stops at the sentinel; no
command sets it back to 0, and of the host's transactions only reset does; every other frame command keeps FV_BOUND, FV_MODE,
FV_BASE and FV_SIZE. -/
def Obligations.FrameStateMachine : Prop :=
  (∀ (s t : State) (x : Transaction) (rest : List Transaction), s.inbox = x :: rest → x ≠ .reset → step s = .next t →
    s.fv.bound = 1#1 → t.fv.bound = 1#1) ∧
  ∀ (s t : State) (i : Instr), exec i s = .next t →
    (s.fv.bound = 0#1 → t.fv.bound = 1#1 → bindsView i = true ∧ (t.status = 0 ∨ (i = .gNext ∧ t.status = 7))) ∧
    (s.fv.bound = 1#1 → t.fv.bound = 1#1) ∧
    (checksBound i = true →
      t.fv.bound = s.fv.bound ∧ t.fv.mode = s.fv.mode ∧ t.fv.base = s.fv.base ∧ t.fv.size = s.fv.size)

/-- The cached frame header changes only by a bind or F.WRHDR, and the cached group header only by G.OPENW, G.OPENR or G.TRAILER;
no host transaction but reset changes either (70_reset_and_hazards.md rule R246, 10_state.md rules R34 and R39). -/
def Obligations.CachedHeadersChangeOnlyByTheirCommands : Prop :=
  (∀ (s t : State) (i : Instr), exec i s = .next t →
    (bindsView i = false → (∀ id, i ≠ .fWrhdr id) → t.fh = s.fh) ∧
    (i ≠ .gOpenw → (∀ size, i ≠ .gOpenr size) → i ≠ .gTrailer → t.gh = s.gh)) ∧
  (∀ (s t : State) (x : Transaction) (rest : List Transaction), s.inbox = x :: rest → x ≠ .reset →
    (∀ w, x ≠ .wr 0x00#8 w) → step s = .next t → t.fh = s.fh ∧ t.gh = s.gh)

/-- The "written by commands" column of the register map (10_state.md rule R23), row by row: a command writes no register
outside it, and none of CMD, DATA_IN, AVOID_LEN, AVOID[], TIME_SEC and TIME_NSEC. (STATUS and RESULT are written by every
command.) The inbox and the reply, which no command writes either, are the model's fields (log entry 3). -/
def Obligations.CommandsWriteOnlyTheirRegisters : Prop :=
  ∀ (s t : State) (i : Instr), exec i s = .next t →
    t.cmd = s.cmd ∧ t.dataIn = s.dataIn ∧ t.avoidLen = s.avoidLen ∧ t.avoid = s.avoid ∧
    t.timeSec = s.timeSec ∧ t.timeNsec = s.timeNsec ∧ t.inbox = s.inbox ∧ t.reply = s.reply ∧
    ((∀ w, i ≠ .fRddata w) → t.dataOut = s.dataOut) ∧
    (bindsView i = false →
      t.fv.bound = s.fv.bound ∧ t.fv.mode = s.fv.mode ∧ t.fv.base = s.fv.base ∧ t.fv.size = s.fv.size) ∧
    (bindsView i = false → (∀ w, i ≠ .fWrdata w) → (∀ w, i ≠ .fRddata w) → i ≠ .fStuff →
      t.fv.cursor = s.fv.cursor) ∧
    (bindsView i = false → (∀ id, i ≠ .fWrhdr id) →
      t.fh.magic = s.fh.magic ∧ t.fh.id = s.fh.id ∧ t.fh.len = s.fh.len ∧ t.fh.crc = s.fh.crc) ∧
    ((∀ base size mode, i ≠ .fBind base size mode) → i ≠ .gOpenw → (∀ size, i ≠ .gOpenr size) →
      t.grp.mode = s.grp.mode) ∧
    (i ≠ .gOpenw → (∀ size, i ≠ .gOpenr size) → t.grp.size = s.grp.size) ∧
    (i ≠ .gOpenw → (∀ size, i ≠ .gOpenr size) → i ≠ .gCommit → i ≠ .gNext → t.grp.fc = s.grp.fc) ∧
    (i ≠ .gOpenw → (∀ size, i ≠ .gOpenr size) → i ≠ .gCommit → t.grp.frames = s.grp.frames) ∧
    (i ≠ .gOpenw → (∀ size, i ≠ .gOpenr size) → t.gh.vers = s.gh.vers) ∧
    (i ≠ .gOpenw → (∀ size, i ≠ .gOpenr size) → i ≠ .gTrailer →
      t.gh.magic = s.gh.magic ∧ t.gh.tsSec = s.gh.tsSec ∧ t.gh.tsNsec = s.gh.tsNsec ∧
        t.gh.numFrames = s.gh.numFrames ∧ t.gh.headerLen = s.gh.headerLen ∧ t.gh.hcrc = s.gh.hcrc)

/-- A command that fails changes only STATUS and RESULT (20_memory.md rule R55, 60_exceptions.md rules R223 and R226). NOFRAME
is an outcome, not a failure (R222): G.NEXT ending so at the sentinel moves the view, and G.COMMIT ending so changes nothing. -/
def Obligations.FailedCommandChangesOnlyStatusAndResult : Prop :=
  ∀ (s t : State) (i : Instr), exec i s = .next t → t.status ≠ 0 → ¬ (i = .gNext ∧ t.status = 7) →
    t = { s with status := t.status, result := t.result }

/-- The table of completion codes (60_exceptions.md rule R220): every command ends with one of the codes it can raise, and a code
other than OK comes with the RESULT of its row. -/
def Obligations.CompletionCodesFollowTheTable : Prop :=
  ∀ (s t : State) (i : Instr), exec i s = .next t →
    ∃ st : Status, t.status = st.code ∧ raisedBy st i = true ∧ (st ≠ .ok → t.result = failResult st i)

/-- A frame command stores only inside the view, and a group command only inside the group's buffer, but G.OPENW, which clears all
of M (20_memory.md rule R58). F.BIND and the read-side commands store nothing. -/
def Obligations.CommandsStoreOnlyInTheirRange : Prop :=
  ∀ (s t : State) (i : Instr), Inv s → exec i s = .next t →
    (checksBound i = true → ∀ x, x < s.fv.base.toNat ∨ s.fv.base.toNat + s.fv.size.toNat ≤ x →
      t.mem.readByte x = s.mem.readByte x) ∧
    (i = .gTrailer → ∀ x, s.grp.size.toNat ≤ x → t.mem.readByte x = s.mem.readByte x) ∧
    (i ∈ [Instr.fIsvalid, .fIseog, .fMsgsize, .fProcsize, .gCommit, .gNext, .gHdrvalid, .gCalcsize] → t.mem = s.mem) ∧
    ((∃ w, i = .fRddata w) ∨ (∃ base size mode, i = .fBind base size mode) ∨ (∃ size, i = .gOpenr size) →
      t.mem = s.mem)

/-- A frame command's effect depends on no byte of M outside the view (20_memory.md rule R58): in two memories that agree inside
the view it ends alike, in every register, and leaves the view's bytes alike. -/
def Obligations.FrameCommandsReadOnlyTheView : Prop :=
  ∀ (s t : State) (m : Memory) (i : Instr), Inv s → m.wf = true → s.fv.bound = 1#1 → checksBound i = true →
    (∀ x, s.fv.base.toNat ≤ x → x < s.fv.base.toNat + s.fv.size.toNat → m.readByte x = s.mem.readByte x) →
    exec i s = .next t →
      ∃ m' : Memory, exec i { s with mem := m } = .next { t with mem := m' } ∧
        ∀ x, s.fv.base.toNat ≤ x → x < s.fv.base.toNat + s.fv.size.toNat → m'.readByte x = t.mem.readByte x

/-! ### Binding the frame view -/

/-- F.BIND (41_frame.md rules R130 and R132): with a legal mode, size and range it detaches any group, binds the view with the
cursor at 0, and takes the cached header from M, or zero in mode Write; M is not written. -/
def Obligations.FBindBindsTheView : Prop :=
  ∀ (s : State) (base size : BitVec 16) (mode : BitVec 8),
    mode ∈ [1#8, 2#8, 3#8] → 5 ≤ size.toNat → size.toNat ≤ 2052 → base.toNat + size.toNat ≤ 65535 →
      ∃ t, exec (.fBind base size mode) s = .next t ∧
        t = { s with
              status := 0
              result := 1
              grp := { s.grp with mode := 0 }
              fv := { bound := 1, mode := mode.setWidth 2, base := base, size := size.setWidth 12, cursor := 0 }
              fh := t.fh } ∧
        (mode = 2#8 → t.fh = { magic := 0, id := 0, len := 0, crc := 0 }) ∧
        (mode ≠ 2#8 → HeaderAt s.mem base.toNat t.fh)

/-- The construction errors (41_frame.md rule R132, 43_group.md rule R182): a bad mode, size or range, with nothing changed. -/
def Obligations.ConstructionErrors : Prop :=
  ∀ (s : State),
    (∀ (base size : BitVec 16) (mode : BitVec 8),
      mode ∉ [1#8, 2#8, 3#8] ∨ size.toNat < 5 ∨ 2052 < size.toNat ∨ 65535 < base.toNat + size.toNat →
        exec (.fBind base size mode) s = .next { s with status := 2, result := 0 }) ∧
    (∀ size : BitVec 16, size.toNat < s.params.groupMinSize →
      exec (.gOpenr size) s = .next { s with status := 2, result := 0 })

/-! ### Payload access and the frame header -/

/-- F.WRDATA (41_frame.md rule R133, 20_memory.md rule R50): the low bytes of DATA_IN, most significant first, at the cursor's
address; the cursor moves past them; every other byte and register stays. -/
def Obligations.FWrdataStoresBigEndian : Prop :=
  ∀ (s : State) (w : BitVec 8), Inv s → w ∈ [1#8, 2#8, 4#8, 8#8] → s.fv.bound = 1#1 →
    s.fv.mode ∈ [2#2, 3#2] → 5 + s.fv.cursor.toNat + w.toNat ≤ s.fv.size.toNat →
      ∃ t, exec (.fWrdata w) s = .next t ∧
        t = { s with
              status := 0
              result := 1
              fv := { s.fv with cursor := BitVec.ofNat 12 (s.fv.cursor.toNat + w.toNat) }
              mem := t.mem } ∧
        t.fv.cursor.toNat = s.fv.cursor.toNat + w.toNat ∧
        ∀ a, t.mem.readByte a =
          if s.cursorAddr ≤ a ∧ a < s.cursorAddr + w.toNat then
            s.dataIn.extractLsb' (8 * (s.cursorAddr + w.toNat - 1 - a)) 8
          else s.mem.readByte a

/-- F.RDDATA (41_frame.md rule R134, 20_memory.md rule R50): DATA_OUT is the bytes at the cursor's address, most significant
first, zero-extended; the cursor moves past them; M and every other register stay. -/
def Obligations.FRddataLoadsBigEndian : Prop :=
  ∀ (s : State) (w : BitVec 8), Inv s → w ∈ [1#8, 2#8, 4#8, 8#8] → s.fv.bound = 1#1 →
    s.fv.mode ∈ [1#2, 3#2] → 5 + s.fv.cursor.toNat + w.toNat ≤ s.fv.size.toNat →
      ∃ t, exec (.fRddata w) s = .next t ∧
        t = { s with
              status := 0
              result := 1
              fv := { s.fv with cursor := BitVec.ofNat 12 (s.fv.cursor.toNat + w.toNat) }
              dataOut := t.dataOut } ∧
        t.fv.cursor.toNat = s.fv.cursor.toNat + w.toNat ∧
        ∀ j, j < 8 → t.dataOut.extractLsb' (8 * j) 8 =
          if j < w.toNat then s.mem.readByte (s.cursorAddr + (w.toNat - 1 - j)) else 0

/-- The failures of payload access and header finalization in their order (60_exceptions.md rule R225): unbound, capability, room,
with nothing else changed. -/
def Obligations.PayloadAccessFailuresInOrder : Prop :=
  ∀ (s : State) (w : BitVec 8) (id : BitVec 7),
    (s.fv.bound = 0#1 → ∀ i ∈ [Instr.fWrdata w, .fRddata w, .fWrhdr id],
      exec i s = .next { s with status := 5, result := 0 }) ∧
    (s.fv.bound = 1#1 → s.fv.mode.getLsbD 1 = false →
      exec (.fWrdata w) s = .next { s with status := 3, result := 0 }) ∧
    (s.fv.bound = 1#1 → s.fv.mode.getLsbD 0 = false →
      exec (.fRddata w) s = .next { s with status := 3, result := 0 }) ∧
    (s.fv.bound = 1#1 → s.fv.mode.getLsbD 1 = true → s.fv.size.toNat < 5 + s.fv.cursor.toNat + w.toNat →
      exec (.fWrdata w) s = .next { s with status := 4, result := 0 }) ∧
    (s.fv.bound = 1#1 → s.fv.mode.getLsbD 0 = true → s.fv.size.toNat < 5 + s.fv.cursor.toNat + w.toNat →
      exec (.fRddata w) s = .next { s with status := 4, result := 0 }) ∧
    (s.fv.bound = 1#1 → 2047 < s.fv.cursor.toNat → exec (.fWrhdr id) s = .next { s with status := 4, result := 0 })

/-- F.WRHDR (41_frame.md rule R135): the cached header is magic, id, len = cursor and the CRC over the header with crc zero and
the payload; the five bytes of the view's header are its wire form; the cursor and every other byte stay. No mode is checked. -/
def Obligations.FWrhdrFinalizesTheHeader : Prop :=
  ∀ (s : State) (id : BitVec 7), Inv s → s.fv.bound = 1#1 →
    ∃ t, exec (.fWrhdr id) s = .next t ∧
      t = { s with
            status := 0
            result := 1
            fh := { magic := 0x7E
                    id := id
                    len := s.fv.cursor.setWidth 11
                    crc := wireFrameCrc s.params s.mem id (s.fv.cursor.setWidth 11) s.fv.base.toNat }
            mem := t.mem } ∧
      t.fh.len.toNat = s.fv.cursor.toNat ∧
      ∀ a, t.mem.readByte a =
        if s.fv.base.toNat ≤ a ∧ a < s.fv.base.toNat + 5 then (wireFrameHeader t.fh).getD (a - s.fv.base.toNat) 0
        else s.mem.readByte a

/-! ### Frame queries -/

/-- F.ISVALID (41_frame.md rule R136, 40_fields_crc.md rule R109): ERR_UNBOUND if unbound, else OK with RESULT 1 exactly when
the cached header has the magic, its length fits the view and its CRC is that of the header and payload; nothing else changes.
-/
def Obligations.FIsvalidAnswersValidity : Prop :=
  ∀ s : State,
    (s.fv.bound = 0#1 → exec .fIsvalid s = .next { s with status := 5, result := 0 }) ∧
    (Inv s → s.fv.bound = 1#1 →
      ∃ r : BitVec 32, exec .fIsvalid s = .next { s with status := 0, result := r } ∧
        (ValidView s → r = 1) ∧ (¬ ValidView s → r = 0))

/-- F.ISEOG (41_frame.md rule R137, 40_fields_crc.md rule R110): ERR_UNBOUND if unbound, else OK with RESULT 1 exactly when the
cached header is the sentinel's; no CRC is checked. -/
def Obligations.FIseogAnswersSentinel : Prop :=
  ∀ s : State,
    (s.fv.bound = 0#1 → exec .fIseog s = .next { s with status := 5, result := 0 }) ∧
    (s.fv.bound = 1#1 →
      ∃ r : BitVec 32, exec .fIseog s = .next { s with status := 0, result := r } ∧
        (EogHeader s.fh → r = 1) ∧ (¬ EogHeader s.fh → r = 0))

/-- F.MSGSIZE (41_frame.md rule R138, 40_fields_crc.md rule R111): ERR_UNBOUND if unbound, else OK with 5 + FH_LEN for a valid
frame and 0 for any other. -/
def Obligations.FMsgsizeAnswersSize : Prop :=
  ∀ s : State,
    (s.fv.bound = 0#1 → exec .fMsgsize s = .next { s with status := 5, result := 0 }) ∧
    (Inv s → s.fv.bound = 1#1 →
      ∃ r : BitVec 32, exec .fMsgsize s = .next { s with status := 0, result := r } ∧
        (ValidView s → r.toNat = 5 + s.fh.len.toNat) ∧ (¬ ValidView s → r = 0))

/-- F.PROCSIZE (41_frame.md rule R139): ERR_UNBOUND if unbound, else OK with 5 + FV_CURSOR, whatever the frame's validity. -/
def Obligations.FProcsizeAnswersCursor : Prop :=
  ∀ s : State,
    (s.fv.bound = 0#1 → exec .fProcsize s = .next { s with status := 5, result := 0 }) ∧
    (s.fv.bound = 1#1 →
      ∃ r : BitVec 32, exec .fProcsize s = .next { s with status := 0, result := r } ∧ r.toNat = 5 + s.fv.cursor.toNat)

/-! ### Stuffing -/

/-- The machine's stuffing scan gives every payload the one stuffed form and count the discipline of 42_stuffing.md rules R161
and R162 allows, longer by the count; its destuffing scan (rule R163) answers exactly where there is a destuffed form, with the
one form and count there is. -/
def Obligations.StuffingScanIsTotalAndDeterministic : Prop :=
  ∀ (p : List Byte) (e : Byte) (src : List Byte), p ≠ [] →
    Stuffed p e src (stuffBytes p e src).1 (stuffBytes p e src).2 ∧
    (stuffBytes p e src).1.length = src.length + (stuffBytes p e src).2 ∧
    (∀ out k, Stuffed p e src out k → out = (stuffBytes p e src).1 ∧ k = (stuffBytes p e src).2) ∧
    (∀ out r, destuffBytes p e src = some (out, r) → Destuffed p e src out r ∧ out.length + r = src.length) ∧
    (∀ out r, Destuffed p e src out r → destuffBytes p e src = some (out, r))

/-- F.STUFF (42_stuffing.md rules R161 and R162) whose stuffed form fits the view: the written payload is replaced by it, and the
cursor grows by the number of escapes, which is RESULT; every other byte and register stays. -/
def Obligations.FStuffStuffsTheWrittenPayload : Prop :=
  ∀ (s : State) (out : List Byte) (k : Nat), Inv s → s.fv.bound = 1#1 → 2 ≤ s.avoidLen.toNat → s.avoidLen.toNat ≤ 16 →
    Stuffed s.avoidHead s.escapeByte (s.mem.readBytes s.payloadBase s.fv.cursor.toNat) out k →
    5 + s.fv.cursor.toNat + k ≤ s.fv.size.toNat →
      ∃ t, exec .fStuff s = .next t ∧
        t = { s with
              status := 0
              result := BitVec.ofNat 32 k
              fv := { s.fv with cursor := BitVec.ofNat 12 (s.fv.cursor.toNat + k) }
              mem := t.mem } ∧
        t.fv.cursor.toNat = s.fv.cursor.toNat + k ∧
        ∀ a, t.mem.readByte a =
          if s.payloadBase ≤ a ∧ a < s.payloadBase + out.length then out.getD (a - s.payloadBase) 0
          else s.mem.readByte a

/-- F.DESTUFF (42_stuffing.md rules R161 and R163) on a valid frame whose payload destuffs: the payload's first bytes become the
destuffed form, RESULT is the number of escapes removed, and the freed tail bytes, the headers and the cursor stay. -/
def Obligations.FDestuffRemovesTheEscapes : Prop :=
  ∀ (s : State) (out : List Byte) (r : Nat), Inv s → s.fv.bound = 1#1 → 2 ≤ s.avoidLen.toNat → s.avoidLen.toNat ≤ 16 →
    ValidView s →
    Destuffed s.avoidHead s.escapeByte (s.mem.readBytes s.payloadBase s.fh.len.toNat) out r →
      out.length + r = s.fh.len.toNat ∧
      ∃ t, exec .fDestuff s = .next t ∧
        t = { s with status := 0, result := BitVec.ofNat 32 r, mem := t.mem } ∧
        ∀ a, t.mem.readByte a =
          if s.payloadBase ≤ a ∧ a < s.payloadBase + out.length then out.getD (a - s.payloadBase) 0
          else s.mem.readByte a

/-- The failures of stuffing and destuffing in their order (60_exceptions.md rule R225, 42_stuffing.md rules R162 and R163):
unbound with RESULT 0; then with RESULT -1 a bad avoid sequence; an overflow; a frame that is not valid; a malformed escape.
Nothing else changes. -/
def Obligations.StuffingFailuresInOrder : Prop :=
  ∀ s : State,
    (s.fv.bound = 0#1 → ∀ i ∈ [Instr.fStuff, .fDestuff], exec i s = .next { s with status := 5, result := 0 }) ∧
    (s.fv.bound = 1#1 → s.avoidLen.toNat < 2 ∨ 16 < s.avoidLen.toNat →
      ∀ i ∈ [Instr.fStuff, .fDestuff], exec i s = .next { s with status := 6, result := 0xFFFFFFFF }) ∧
    (Inv s → s.fv.bound = 1#1 → 2 ≤ s.avoidLen.toNat → s.avoidLen.toNat ≤ 16 →
      (∀ out k, Stuffed s.avoidHead s.escapeByte (s.mem.readBytes s.payloadBase s.fv.cursor.toNat) out k →
        s.fv.size.toNat < 5 + s.fv.cursor.toNat + k →
          exec .fStuff s = .next { s with status := 6, result := 0xFFFFFFFF }) ∧
      (¬ ValidView s → exec .fDestuff s = .next { s with status := 8, result := 0xFFFFFFFF }) ∧
      (ValidView s →
        (¬ ∃ out r, Destuffed s.avoidHead s.escapeByte (s.mem.readBytes s.payloadBase s.fh.len.toNat) out r) →
          exec .fDestuff s = .next { s with status := 6, result := 0xFFFFFFFF }))

/-! ### Group commands -/

/-- G.OPENW (43_group.md rule R181), in every state: M is all zero, an empty group of 65535 bytes is open for writing, both cached
headers are zero, and its first frame is bound at 13 in mode Write. -/
def Obligations.GOpenwOpensAnEmptyGroup : Prop :=
  ∀ s : State, ∃ t, exec .gOpenw s = .next t ∧
    t = { s with
          status := 0
          result := 1
          grp := { mode := 2, size := 65535, fc := 13, frames := 0 }
          gh := { magic := 0, vers := 0, tsSec := 0, tsNsec := 0, numFrames := 0, headerLen := 0, hcrc := 0 }
          fv := { bound := 1, mode := 2, base := 13, size := 2052, cursor := 0 }
          fh := { magic := 0, id := 0, len := 0, crc := 0 }
          mem := t.mem } ∧
    ∀ a, t.mem.readByte a = 0

/-- G.OPENR (43_group.md rule R182): a group of size bytes is open for reading, the group header is loaded from M, not
validated, and the frame at 13 is bound in mode Read with its header loaded; M is not written. -/
def Obligations.GOpenrOpensTheBytesInM : Prop :=
  ∀ (s : State) (size : BitVec 16), Inv s → s.params.groupMinSize ≤ size.toNat →
    ∃ t, exec (.gOpenr size) s = .next t ∧
      t = { s with
            status := 0
            result := 1
            grp := { mode := 1, size := size, fc := 13, frames := 0 }
            gh := t.gh
            fv := { bound := 1, mode := 1, base := 13, size := t.fv.size, cursor := 0 }
            fh := t.fh } ∧
      t.fv.size.toNat = min (size.toNat - 13) 2052 ∧
      wireGroupHeader t.gh = s.mem.readBytes 0 13 ∧
      HeaderAt s.mem 13 t.fh

/-- G.COMMIT (43_group.md rule R183) of a valid frame with room for a next header: the frame cursor moves past the frame, the
count grows by one modulo 2048, and the next view is bound there in mode Write with a zero header; M is not written. -/
def Obligations.GCommitAdvancesPastTheFrame : Prop :=
  ∀ s : State, Inv s → s.grp.mode = 2#2 → ValidView s →
    s.grp.fc.toNat + 5 + s.fh.len.toNat + 5 ≤ s.grp.size.toNat →
      ∃ t, exec .gCommit s = .next t ∧
        t = { s with
              status := 0
              result := 1
              grp := { s.grp with fc := t.grp.fc, frames := t.grp.frames }
              fv := { bound := 1, mode := 2, base := t.grp.fc, size := t.fv.size, cursor := 0 }
              fh := { magic := 0, id := 0, len := 0, crc := 0 } } ∧
        t.grp.fc.toNat = s.grp.fc.toNat + 5 + s.fh.len.toNat ∧
        t.grp.frames.toNat = (s.grp.frames.toNat + 1) % 2048 ∧
        t.fv.size.toNat = min (s.grp.size.toNat - t.grp.fc.toNat) 2052

/-- The failures of G.COMMIT in write mode, in their order (43_group.md rule R183, 60_exceptions.md rule R225): a frame that is
not valid, then no room for a next header; nothing else changes. -/
def Obligations.GCommitFailuresInOrder : Prop :=
  ∀ s : State, Inv s → s.grp.mode = 2#2 →
    (¬ ValidView s → exec .gCommit s = .next { s with status := 8, result := 0 }) ∧
    (ValidView s → s.grp.size.toNat < s.grp.fc.toNat + 5 + s.fh.len.toNat + 5 →
      exec .gCommit s = .next { s with status := 7, result := 0 })

/-- G.NEXT (43_group.md rule R184): from past the current frame, by its size if it is valid, else by one byte, the first offset
that holds a sentinel or a valid frame is bound in mode Read, with NOFRAME at a sentinel and OK at a frame; M is not written. -/
def Obligations.GNextFindsTheFirstStop : Prop :=
  ∀ (s : State) (start p : Nat) (h : FrameHeader), Inv s → s.grp.mode = 1#2 → ScanStart s start → start ≤ p →
    StopsAt s.params s.mem s.grp.size.toNat p h →
    (∀ q h', start ≤ q → q < p → ¬ StopsAt s.params s.mem s.grp.size.toNat q h') →
      ∃ t, exec .gNext s = .next t ∧
        t = { s with
              status := t.status
              result := t.result
              grp := { s.grp with fc := BitVec.ofNat 16 p }
              fv := { bound := 1, mode := 1, base := BitVec.ofNat 16 p, size := t.fv.size, cursor := 0 }
              fh := h } ∧
        t.grp.fc.toNat = p ∧
        t.fv.size.toNat = min (s.grp.size.toNat - p) 2052 ∧
        (EogHeader h → t.status = 7 ∧ t.result = 0) ∧
        (¬ EogHeader h → t.status = 0 ∧ t.result = 1)

/-- G.NEXT at the end of the buffer (43_group.md rule R184): with nothing to stop at from its start on, it ends with NOFRAME and
the view and the frame cursor unchanged. -/
def Obligations.GNextEndsAtTheBufferEnd : Prop :=
  ∀ (s : State) (start : Nat), Inv s → s.grp.mode = 1#2 → ScanStart s start →
    (∀ p h, start ≤ p → ¬ StopsAt s.params s.mem s.grp.size.toNat p h) →
      exec .gNext s = .next { s with status := 7, result := 0 }

/-- G.TRAILER (43_group.md rule R185): the sentinel's five bytes at the frame cursor and the group header's thirteen at 0, which
is also cached; the frame cursor, the count, the view, its cached header and every other byte stay. -/
def Obligations.GTrailerWritesSentinelAndHeader : Prop :=
  ∀ s : State, Inv s → s.grp.mode = 2#2 →
    ∃ t, exec .gTrailer s = .next t ∧
      t = { s with
            status := 0
            result := 1
            gh := { magic := 0xAA
                    vers := s.gh.vers
                    tsSec := s.timeSec
                    tsNsec := s.timeNsec
                    numFrames := s.grp.frames
                    headerLen := 13
                    hcrc := wireGroupCrc s.params
                      { magic := 0xAA, vers := s.gh.vers, tsSec := s.timeSec, tsNsec := s.timeNsec,
                        numFrames := s.grp.frames, headerLen := 13, hcrc := 0 } }
            mem := t.mem } ∧
      ∀ a, t.mem.readByte a =
        if a < 13 then (wireGroupHeader t.gh).getD a 0
        else if s.grp.fc.toNat ≤ a ∧ a < s.grp.fc.toNat + 5 then
          [0x7E#8, 0xFE#8, 0x00#8, 0x00#8, 0x00#8].getD (a - s.grp.fc.toNat) 0
        else s.mem.readByte a

/-- G.HDRVALID (43_group.md rule R186, 40_fields_crc.md rule R112): ERR_CAPABILITY with no group open; else 1 exactly when the
cached group header has the magic and its CRC; nothing else changes. -/
def Obligations.GHdrvalidAnswersValidity : Prop :=
  ∀ s : State,
    (s.grp.mode ∉ [1#2, 2#2] → exec .gHdrvalid s = .next { s with status := 3, result := 0 }) ∧
    (s.grp.mode ∈ [1#2, 2#2] →
      ∃ r : BitVec 32, exec .gHdrvalid s = .next { s with status := 0, result := r } ∧
        (ValidGroupHeader s.params s.gh → r = 1) ∧ (¬ ValidGroupHeader s.params s.gh → r = 0))

/-- G.CALCSIZE (43_group.md rule R187) with a group open: 0 for an invalid group header, else what the scan of the rule
recovers, which is never past the group's buffer; nothing else changes. -/
def Obligations.GCalcsizeRecoversTheSize : Prop :=
  ∀ s : State, Inv s → s.grp.mode ∈ [1#2, 2#2] →
    ∃ r : BitVec 32, exec .gCalcsize s = .next { s with status := 0, result := r } ∧
      (¬ ValidGroupHeader s.params s.gh → r = 0) ∧
      (ValidGroupHeader s.params s.gh →
        Recovers s.params s.mem s.grp.size.toNat s.gh.numFrames.toNat 13 0 13 r.toNat ∧
          13 ≤ r.toNat ∧ r.toNat ≤ s.grp.size.toNat)

/-! ### The wire formats -/

/-- The frame header serializer writes the bytes of 30_encoding.md rule R80, and serializer and deserializer are mutual inverses
(40_fields_crc.md rules R102 and R103). -/
def Obligations.FrameHeaderSerializersAreInverse : Prop :=
  (∀ h : FrameHeader, serFH h = wireFrameHeader h ∧ desFH (serFH h) = h) ∧
  (∀ bs : List Byte, bs.length = 5 → serFH (desFH bs) = bs)

/-- The group header serializer writes the bytes of 30_encoding.md rule R81, and serializer and deserializer are mutual inverses
(40_fields_crc.md rules R104 and R105). -/
def Obligations.GroupHeaderSerializersAreInverse : Prop :=
  (∀ h : GroupHeader, serGH h = wireGroupHeader h ∧ desGH (serGH h) = h) ∧
  (∀ bs : List Byte, bs.length = 13 → serGH (desGH bs) = bs)

/-- A payload written at one width and read at another sees the big-endian bytes (20_memory.md rule R52): F.WRDATA 2 puts
DATA_IN[15:8] then DATA_IN[7:0] in M; two reads of width 1 give the one and then the other; one read of width 4 over them and
two more bytes gives all four. With DATA_IN = 0xBEEF it is the rule's example. -/
def Obligations.MixedWidthAccessesSeeBigEndianBytes : Prop :=
  ∀ s t : State, Inv s → s.fv.bound = 1#1 → s.fv.mode = 3#2 → 9 + s.fv.cursor.toNat ≤ s.fv.size.toNat →
    exec (.fWrdata 2#8) s = .next t →
      t.mem.readByte s.cursorAddr = s.dataIn.extractLsb' 8 8 ∧
      t.mem.readByte (s.cursorAddr + 1) = s.dataIn.extractLsb' 0 8 ∧
      (∃ u v, exec (.fRddata 1#8) { t with fv := s.fv } = .next u ∧
        u.dataOut = 0#56 ++ s.dataIn.extractLsb' 8 8 ∧
        exec (.fRddata 1#8) u = .next v ∧ v.dataOut = 0#56 ++ s.dataIn.extractLsb' 0 8) ∧
      (∃ u, exec (.fRddata 4#8) { t with fv := s.fv } = .next u ∧
        u.dataOut = 0#32 ++ s.dataIn.extractLsb' 8 8 ++ s.dataIn.extractLsb' 0 8 ++
          s.mem.readByte (s.cursorAddr + 2) ++ s.mem.readByte (s.cursorAddr + 3))

/-! ### Whole-machine properties -/

/-- After F.WRHDR the frame is valid, and F.MSGSIZE answers 5 + cursor (41_frame.md rules R135, R136 and R138). -/
def Obligations.FWrhdrMakesTheFrameValid : Prop :=
  ∀ (s t : State) (id : BitVec 7), Inv s → s.fv.bound = 1#1 → exec (.fWrhdr id) s = .next t →
    exec .fIsvalid t = .next { t with status := 0, result := 1 } ∧
    exec .fMsgsize t = .next { t with status := 0, result := BitVec.ofNat 32 (5 + s.fv.cursor.toNat) }

/-- The round-trip law (41_frame.md rule R141): values written by F.WRDATA and finalized by F.WRHDR id come back, masked to their
widths, from a Read bind over the same bytes; the frame is valid, with the id and the summed length. -/
def Obligations.WrittenValuesReadBack : Prop :=
  ∀ (s t u v : State) (xs : List (BitVec 8 × BitVec 64)) (id : BitVec 7),
    Inv s → s.fv.bound = 1#1 → s.fv.cursor = 0#12 → (∀ x ∈ xs, x.1 ∈ [1#8, 2#8, 4#8, 8#8]) →
    writeValues xs s = some t → exec (.fWrhdr id) t = .next u →
    exec (.fBind u.fv.base (u.fv.size.setWidth 16) 1#8) u = .next v →
      ∃ z, readValues (xs.map Prod.fst) v =
          some (xs.map fun x => BitVec.ofNat 64 (x.2.toNat % 2 ^ (8 * x.1.toNat)), z) ∧
        exec .fIsvalid z = .next { z with status := 0, result := 1 } ∧
        z.fh.id = id ∧ z.fh.len.toNat = (xs.map fun x => x.1.toNat).sum

/-- CRC sensitivity (40_fields_crc.md rule R115), for a frame polynomial that is not zero: a valid frame with any one bit
flipped in a payload byte, in the magic, in the id or in the crc is not valid. (A flip in len is not covered, as the rule says.)
-/
def Obligations.SingleBitFlipsAreDetected : Prop :=
  ∀ s : State, Inv s → s.fv.bound = 1#1 → s.params.frameCrcPoly ≠ 0#14 → ValidView s →
    (∀ a j, s.payloadBase ≤ a → a < s.payloadBase + s.fh.len.toNat → j < 8 →
      ¬ ValidView { s with mem := s.mem.writeByte a (s.mem.readByte a ^^^ (1#8 <<< j)) }) ∧
    (∀ j, j < 8 → ¬ ValidView { s with fh := { s.fh with magic := s.fh.magic ^^^ (1#8 <<< j) } }) ∧
    (∀ j, j < 7 → ¬ ValidView { s with fh := { s.fh with id := s.fh.id ^^^ (1#7 <<< j) } }) ∧
    (∀ j, j < 14 → ¬ ValidView { s with fh := { s.fh with crc := s.fh.crc ^^^ (1#14 <<< j) } })

/-- A host write into the bound view's header bytes does not change F.ISVALID's, F.ISEOG's or F.MSGSIZE's answer: they use the
cached header (70_reset_and_hazards.md rule R246, 41_frame.md rule R136). -/
def Obligations.HeaderBytesInMDoNotChangeTheAnswer : Prop :=
  ∀ (s t : State) (a : Nat) (bs : List Byte) (rest : List Transaction),
    Inv s → s.fv.bound = 1#1 → s.inbox = .memWr a bs :: rest →
    s.fv.base.toNat ≤ a → a + bs.length ≤ s.fv.base.toNat + 5 → step s = .next t →
      ∀ i ∈ [Instr.fIsvalid, .fIseog, .fMsgsize], ∃ r : BitVec 32,
        exec i s = .next { s with status := 0, result := r } ∧ exec i t = .next { t with status := 0, result := r }

/-- Stuffing is invertible (42_stuffing.md rule R164): F.STUFF, F.WRHDR and F.DESTUFF in a row succeed with the same count, and
the payload's first bytes are the original. -/
def Obligations.DestuffUndoesStuff : Prop :=
  ∀ (s t u : State) (id : BitVec 7), Inv s → s.fv.bound = 1#1 →
    exec .fStuff s = .next t → t.status = 0 → exec (.fWrhdr id) t = .next u →
      ∃ v, exec .fDestuff u = .next v ∧ v.status = 0 ∧ v.result = t.result ∧
        v.mem.readBytes s.payloadBase s.fv.cursor.toNat = s.mem.readBytes s.payloadBase s.fv.cursor.toNat

/-- With the sentinel image as the avoid sequence, a stuffed payload never contains the End-Of-Group image (42_stuffing.md rule
R165). -/
def Obligations.StuffedPayloadHoldsNoSentinel : Prop :=
  ∀ s t : State, Inv s → s.fv.bound = 1#1 → s.avoidLen = 5#8 →
    s.avoid.toList.take 5 = [0x7E#8, 0xFE#8, 0x00#8, 0x00#8, 0x00#8] →
    exec .fStuff s = .next t → t.status = 0 →
      ∀ j, j + 5 ≤ t.fv.cursor.toNat →
        t.mem.readBytes (t.payloadBase + j) 5 ≠ [0x7E#8, 0xFE#8, 0x00#8, 0x00#8, 0x00#8]

/-- After G.TRAILER the group header is valid, and a read group over the same bytes has it too (43_group.md rules R185 and
R186). -/
def Obligations.GTrailerMakesTheGroupHeaderValid : Prop :=
  ∀ (s t : State), Inv s → s.grp.mode = 2#2 → exec .gTrailer s = .next t →
    exec .gHdrvalid t = .next { t with status := 0, result := 1 } ∧
    ∀ size : BitVec 16, t.params.groupMinSize ≤ size.toNat →
      ∃ u, exec (.gOpenr size) t = .next u ∧ u.gh = t.gh ∧
        exec .gHdrvalid u = .next { u with status := 0, result := 1 }

/-- Committing keeps the group's bytes a chain of valid frames (30_encoding.md rule R83, 43_group.md rule R183): from n frames
before the frame cursor, a committed frame whose header bytes in M are its cached header makes n + 1. -/
def Obligations.GCommitExtendsTheFrameChain : Prop :=
  ∀ (s t : State) (n : Nat), Inv s → s.grp.mode = 2#2 →
    FrameChain s.params s.mem 13 s.grp.fc.toNat n → HeaderAt s.mem s.grp.fc.toNat s.fh → ¬ EogHeader s.fh →
    exec .gCommit s = .next t → t.status = 0 →
      FrameChain t.params t.mem 13 t.grp.fc.toNat (n + 1)

/-- Group accounting (43_group.md rule R187, 95_test_vectors.md section 1.4): G.TRAILER over n < 2048 committed frames gives
GH_NUMFRAMES = n, and G.CALCSIZE is the offset of the end of the sentinel. -/
def Obligations.GroupAccounting : Prop :=
  ∀ (s t : State) (n : Nat), Inv s → s.grp.mode = 2#2 → s.grp.frames.toNat = n →
    FrameChain s.params s.mem 13 s.grp.fc.toNat n → exec .gTrailer s = .next t →
      t.gh.numFrames.toNat = n ∧
      exec .gCalcsize t = .next { t with status := 0, result := BitVec.ofNat 32 (s.grp.fc.toNat + 5) }
end

