-- ==== Sys2Proof/Laws/State.lean ====
section
/-! SUPPORT. One lemma per field per update of State, each true by rfl, so that no proof unfolds a record update. -/

namespace Sys2Proof.Machine

variable (s : State)

/-! ### State.finished -/

@[simp] theorem State.finished_cmd (st : Status) (res : BitVec 32) : (s.finished st res).cmd = s.cmd := rfl
@[simp] theorem State.finished_status (st : Status) (res : BitVec 32) : (s.finished st res).status = st.code := rfl
@[simp] theorem State.finished_result (st : Status) (res : BitVec 32) : (s.finished st res).result = res := rfl
@[simp] theorem State.finished_dataIn (st : Status) (res : BitVec 32) : (s.finished st res).dataIn = s.dataIn := rfl
@[simp] theorem State.finished_dataOut (st : Status) (res : BitVec 32) : (s.finished st res).dataOut = s.dataOut := rfl
@[simp] theorem State.finished_avoidLen (st : Status) (res : BitVec 32) : (s.finished st res).avoidLen = s.avoidLen := rfl
@[simp] theorem State.finished_avoid (st : Status) (res : BitVec 32) : (s.finished st res).avoid = s.avoid := rfl
@[simp] theorem State.finished_timeSec (st : Status) (res : BitVec 32) : (s.finished st res).timeSec = s.timeSec := rfl
@[simp] theorem State.finished_timeNsec (st : Status) (res : BitVec 32) : (s.finished st res).timeNsec = s.timeNsec := rfl
@[simp] theorem State.finished_fv (st : Status) (res : BitVec 32) : (s.finished st res).fv = s.fv := rfl
@[simp] theorem State.finished_fh (st : Status) (res : BitVec 32) : (s.finished st res).fh = s.fh := rfl
@[simp] theorem State.finished_grp (st : Status) (res : BitVec 32) : (s.finished st res).grp = s.grp := rfl
@[simp] theorem State.finished_gh (st : Status) (res : BitVec 32) : (s.finished st res).gh = s.gh := rfl
@[simp] theorem State.finished_mem (st : Status) (res : BitVec 32) : (s.finished st res).mem = s.mem := rfl
@[simp] theorem State.finished_params (st : Status) (res : BitVec 32) : (s.finished st res).params = s.params := rfl
@[simp] theorem State.finished_inbox (st : Status) (res : BitVec 32) : (s.finished st res).inbox = s.inbox := rfl
@[simp] theorem State.finished_reply (st : Status) (res : BitVec 32) : (s.finished st res).reply = s.reply := rfl

/-! ### State.setMem -/

@[simp] theorem State.setMem_cmd (m : Memory) : (s.setMem m).cmd = s.cmd := rfl
@[simp] theorem State.setMem_status (m : Memory) : (s.setMem m).status = s.status := rfl
@[simp] theorem State.setMem_result (m : Memory) : (s.setMem m).result = s.result := rfl
@[simp] theorem State.setMem_dataIn (m : Memory) : (s.setMem m).dataIn = s.dataIn := rfl
@[simp] theorem State.setMem_dataOut (m : Memory) : (s.setMem m).dataOut = s.dataOut := rfl
@[simp] theorem State.setMem_avoidLen (m : Memory) : (s.setMem m).avoidLen = s.avoidLen := rfl
@[simp] theorem State.setMem_avoid (m : Memory) : (s.setMem m).avoid = s.avoid := rfl
@[simp] theorem State.setMem_timeSec (m : Memory) : (s.setMem m).timeSec = s.timeSec := rfl
@[simp] theorem State.setMem_timeNsec (m : Memory) : (s.setMem m).timeNsec = s.timeNsec := rfl
@[simp] theorem State.setMem_fv (m : Memory) : (s.setMem m).fv = s.fv := rfl
@[simp] theorem State.setMem_fh (m : Memory) : (s.setMem m).fh = s.fh := rfl
@[simp] theorem State.setMem_grp (m : Memory) : (s.setMem m).grp = s.grp := rfl
@[simp] theorem State.setMem_gh (m : Memory) : (s.setMem m).gh = s.gh := rfl
@[simp] theorem State.setMem_mem (m : Memory) : (s.setMem m).mem = m := rfl
@[simp] theorem State.setMem_params (m : Memory) : (s.setMem m).params = s.params := rfl
@[simp] theorem State.setMem_inbox (m : Memory) : (s.setMem m).inbox = s.inbox := rfl
@[simp] theorem State.setMem_reply (m : Memory) : (s.setMem m).reply = s.reply := rfl

/-! ### State.setCursor -/

@[simp] theorem State.setCursor_cmd (n : Nat) : (s.setCursor n).cmd = s.cmd := rfl
@[simp] theorem State.setCursor_status (n : Nat) : (s.setCursor n).status = s.status := rfl
@[simp] theorem State.setCursor_result (n : Nat) : (s.setCursor n).result = s.result := rfl
@[simp] theorem State.setCursor_dataIn (n : Nat) : (s.setCursor n).dataIn = s.dataIn := rfl
@[simp] theorem State.setCursor_dataOut (n : Nat) : (s.setCursor n).dataOut = s.dataOut := rfl
@[simp] theorem State.setCursor_avoidLen (n : Nat) : (s.setCursor n).avoidLen = s.avoidLen := rfl
@[simp] theorem State.setCursor_avoid (n : Nat) : (s.setCursor n).avoid = s.avoid := rfl
@[simp] theorem State.setCursor_timeSec (n : Nat) : (s.setCursor n).timeSec = s.timeSec := rfl
@[simp] theorem State.setCursor_timeNsec (n : Nat) : (s.setCursor n).timeNsec = s.timeNsec := rfl
@[simp] theorem State.setCursor_fv (n : Nat) : (s.setCursor n).fv = { s.fv with cursor := BitVec.ofNat 12 n } := rfl
@[simp] theorem State.setCursor_fh (n : Nat) : (s.setCursor n).fh = s.fh := rfl
@[simp] theorem State.setCursor_grp (n : Nat) : (s.setCursor n).grp = s.grp := rfl
@[simp] theorem State.setCursor_gh (n : Nat) : (s.setCursor n).gh = s.gh := rfl
@[simp] theorem State.setCursor_mem (n : Nat) : (s.setCursor n).mem = s.mem := rfl
@[simp] theorem State.setCursor_params (n : Nat) : (s.setCursor n).params = s.params := rfl
@[simp] theorem State.setCursor_inbox (n : Nat) : (s.setCursor n).inbox = s.inbox := rfl
@[simp] theorem State.setCursor_reply (n : Nat) : (s.setCursor n).reply = s.reply := rfl

/-! ### State.setDataOut -/

@[simp] theorem State.setDataOut_cmd (v : BitVec 64) : (s.setDataOut v).cmd = s.cmd := rfl
@[simp] theorem State.setDataOut_status (v : BitVec 64) : (s.setDataOut v).status = s.status := rfl
@[simp] theorem State.setDataOut_result (v : BitVec 64) : (s.setDataOut v).result = s.result := rfl
@[simp] theorem State.setDataOut_dataIn (v : BitVec 64) : (s.setDataOut v).dataIn = s.dataIn := rfl
@[simp] theorem State.setDataOut_dataOut (v : BitVec 64) : (s.setDataOut v).dataOut = v := rfl
@[simp] theorem State.setDataOut_avoidLen (v : BitVec 64) : (s.setDataOut v).avoidLen = s.avoidLen := rfl
@[simp] theorem State.setDataOut_avoid (v : BitVec 64) : (s.setDataOut v).avoid = s.avoid := rfl
@[simp] theorem State.setDataOut_timeSec (v : BitVec 64) : (s.setDataOut v).timeSec = s.timeSec := rfl
@[simp] theorem State.setDataOut_timeNsec (v : BitVec 64) : (s.setDataOut v).timeNsec = s.timeNsec := rfl
@[simp] theorem State.setDataOut_fv (v : BitVec 64) : (s.setDataOut v).fv = s.fv := rfl
@[simp] theorem State.setDataOut_fh (v : BitVec 64) : (s.setDataOut v).fh = s.fh := rfl
@[simp] theorem State.setDataOut_grp (v : BitVec 64) : (s.setDataOut v).grp = s.grp := rfl
@[simp] theorem State.setDataOut_gh (v : BitVec 64) : (s.setDataOut v).gh = s.gh := rfl
@[simp] theorem State.setDataOut_mem (v : BitVec 64) : (s.setDataOut v).mem = s.mem := rfl
@[simp] theorem State.setDataOut_params (v : BitVec 64) : (s.setDataOut v).params = s.params := rfl
@[simp] theorem State.setDataOut_inbox (v : BitVec 64) : (s.setDataOut v).inbox = s.inbox := rfl
@[simp] theorem State.setDataOut_reply (v : BitVec 64) : (s.setDataOut v).reply = s.reply := rfl

/-! ### State.setView -/

@[simp] theorem State.setView_cmd (v : FrameView) : (s.setView v).cmd = s.cmd := rfl
@[simp] theorem State.setView_status (v : FrameView) : (s.setView v).status = s.status := rfl
@[simp] theorem State.setView_result (v : FrameView) : (s.setView v).result = s.result := rfl
@[simp] theorem State.setView_dataIn (v : FrameView) : (s.setView v).dataIn = s.dataIn := rfl
@[simp] theorem State.setView_dataOut (v : FrameView) : (s.setView v).dataOut = s.dataOut := rfl
@[simp] theorem State.setView_avoidLen (v : FrameView) : (s.setView v).avoidLen = s.avoidLen := rfl
@[simp] theorem State.setView_avoid (v : FrameView) : (s.setView v).avoid = s.avoid := rfl
@[simp] theorem State.setView_timeSec (v : FrameView) : (s.setView v).timeSec = s.timeSec := rfl
@[simp] theorem State.setView_timeNsec (v : FrameView) : (s.setView v).timeNsec = s.timeNsec := rfl
@[simp] theorem State.setView_fv (v : FrameView) : (s.setView v).fv = v := rfl
@[simp] theorem State.setView_fh (v : FrameView) : (s.setView v).fh = s.fh := rfl
@[simp] theorem State.setView_grp (v : FrameView) : (s.setView v).grp = s.grp := rfl
@[simp] theorem State.setView_gh (v : FrameView) : (s.setView v).gh = s.gh := rfl
@[simp] theorem State.setView_mem (v : FrameView) : (s.setView v).mem = s.mem := rfl
@[simp] theorem State.setView_params (v : FrameView) : (s.setView v).params = s.params := rfl
@[simp] theorem State.setView_inbox (v : FrameView) : (s.setView v).inbox = s.inbox := rfl
@[simp] theorem State.setView_reply (v : FrameView) : (s.setView v).reply = s.reply := rfl

/-! ### State.setFh -/

@[simp] theorem State.setFh_cmd (h : FrameHeader) : (s.setFh h).cmd = s.cmd := rfl
@[simp] theorem State.setFh_status (h : FrameHeader) : (s.setFh h).status = s.status := rfl
@[simp] theorem State.setFh_result (h : FrameHeader) : (s.setFh h).result = s.result := rfl
@[simp] theorem State.setFh_dataIn (h : FrameHeader) : (s.setFh h).dataIn = s.dataIn := rfl
@[simp] theorem State.setFh_dataOut (h : FrameHeader) : (s.setFh h).dataOut = s.dataOut := rfl
@[simp] theorem State.setFh_avoidLen (h : FrameHeader) : (s.setFh h).avoidLen = s.avoidLen := rfl
@[simp] theorem State.setFh_avoid (h : FrameHeader) : (s.setFh h).avoid = s.avoid := rfl
@[simp] theorem State.setFh_timeSec (h : FrameHeader) : (s.setFh h).timeSec = s.timeSec := rfl
@[simp] theorem State.setFh_timeNsec (h : FrameHeader) : (s.setFh h).timeNsec = s.timeNsec := rfl
@[simp] theorem State.setFh_fv (h : FrameHeader) : (s.setFh h).fv = s.fv := rfl
@[simp] theorem State.setFh_fh (h : FrameHeader) : (s.setFh h).fh = h := rfl
@[simp] theorem State.setFh_grp (h : FrameHeader) : (s.setFh h).grp = s.grp := rfl
@[simp] theorem State.setFh_gh (h : FrameHeader) : (s.setFh h).gh = s.gh := rfl
@[simp] theorem State.setFh_mem (h : FrameHeader) : (s.setFh h).mem = s.mem := rfl
@[simp] theorem State.setFh_params (h : FrameHeader) : (s.setFh h).params = s.params := rfl
@[simp] theorem State.setFh_inbox (h : FrameHeader) : (s.setFh h).inbox = s.inbox := rfl
@[simp] theorem State.setFh_reply (h : FrameHeader) : (s.setFh h).reply = s.reply := rfl

/-! ### State.setGroup -/

@[simp] theorem State.setGroup_cmd (g : GroupView) : (s.setGroup g).cmd = s.cmd := rfl
@[simp] theorem State.setGroup_status (g : GroupView) : (s.setGroup g).status = s.status := rfl
@[simp] theorem State.setGroup_result (g : GroupView) : (s.setGroup g).result = s.result := rfl
@[simp] theorem State.setGroup_dataIn (g : GroupView) : (s.setGroup g).dataIn = s.dataIn := rfl
@[simp] theorem State.setGroup_dataOut (g : GroupView) : (s.setGroup g).dataOut = s.dataOut := rfl
@[simp] theorem State.setGroup_avoidLen (g : GroupView) : (s.setGroup g).avoidLen = s.avoidLen := rfl
@[simp] theorem State.setGroup_avoid (g : GroupView) : (s.setGroup g).avoid = s.avoid := rfl
@[simp] theorem State.setGroup_timeSec (g : GroupView) : (s.setGroup g).timeSec = s.timeSec := rfl
@[simp] theorem State.setGroup_timeNsec (g : GroupView) : (s.setGroup g).timeNsec = s.timeNsec := rfl
@[simp] theorem State.setGroup_fv (g : GroupView) : (s.setGroup g).fv = s.fv := rfl
@[simp] theorem State.setGroup_fh (g : GroupView) : (s.setGroup g).fh = s.fh := rfl
@[simp] theorem State.setGroup_grp (g : GroupView) : (s.setGroup g).grp = g := rfl
@[simp] theorem State.setGroup_gh (g : GroupView) : (s.setGroup g).gh = s.gh := rfl
@[simp] theorem State.setGroup_mem (g : GroupView) : (s.setGroup g).mem = s.mem := rfl
@[simp] theorem State.setGroup_params (g : GroupView) : (s.setGroup g).params = s.params := rfl
@[simp] theorem State.setGroup_inbox (g : GroupView) : (s.setGroup g).inbox = s.inbox := rfl
@[simp] theorem State.setGroup_reply (g : GroupView) : (s.setGroup g).reply = s.reply := rfl

/-! ### State.setGh -/

@[simp] theorem State.setGh_cmd (h : GroupHeader) : (s.setGh h).cmd = s.cmd := rfl
@[simp] theorem State.setGh_status (h : GroupHeader) : (s.setGh h).status = s.status := rfl
@[simp] theorem State.setGh_result (h : GroupHeader) : (s.setGh h).result = s.result := rfl
@[simp] theorem State.setGh_dataIn (h : GroupHeader) : (s.setGh h).dataIn = s.dataIn := rfl
@[simp] theorem State.setGh_dataOut (h : GroupHeader) : (s.setGh h).dataOut = s.dataOut := rfl
@[simp] theorem State.setGh_avoidLen (h : GroupHeader) : (s.setGh h).avoidLen = s.avoidLen := rfl
@[simp] theorem State.setGh_avoid (h : GroupHeader) : (s.setGh h).avoid = s.avoid := rfl
@[simp] theorem State.setGh_timeSec (h : GroupHeader) : (s.setGh h).timeSec = s.timeSec := rfl
@[simp] theorem State.setGh_timeNsec (h : GroupHeader) : (s.setGh h).timeNsec = s.timeNsec := rfl
@[simp] theorem State.setGh_fv (h : GroupHeader) : (s.setGh h).fv = s.fv := rfl
@[simp] theorem State.setGh_fh (h : GroupHeader) : (s.setGh h).fh = s.fh := rfl
@[simp] theorem State.setGh_grp (h : GroupHeader) : (s.setGh h).grp = s.grp := rfl
@[simp] theorem State.setGh_gh (h : GroupHeader) : (s.setGh h).gh = h := rfl
@[simp] theorem State.setGh_mem (h : GroupHeader) : (s.setGh h).mem = s.mem := rfl
@[simp] theorem State.setGh_params (h : GroupHeader) : (s.setGh h).params = s.params := rfl
@[simp] theorem State.setGh_inbox (h : GroupHeader) : (s.setGh h).inbox = s.inbox := rfl
@[simp] theorem State.setGh_reply (h : GroupHeader) : (s.setGh h).reply = s.reply := rfl

/-! ### State.setCmd -/

@[simp] theorem State.setCmd_cmd (w : CommandWord) : (s.setCmd w).cmd = w := rfl
@[simp] theorem State.setCmd_status (w : CommandWord) : (s.setCmd w).status = s.status := rfl
@[simp] theorem State.setCmd_result (w : CommandWord) : (s.setCmd w).result = s.result := rfl
@[simp] theorem State.setCmd_dataIn (w : CommandWord) : (s.setCmd w).dataIn = s.dataIn := rfl
@[simp] theorem State.setCmd_dataOut (w : CommandWord) : (s.setCmd w).dataOut = s.dataOut := rfl
@[simp] theorem State.setCmd_avoidLen (w : CommandWord) : (s.setCmd w).avoidLen = s.avoidLen := rfl
@[simp] theorem State.setCmd_avoid (w : CommandWord) : (s.setCmd w).avoid = s.avoid := rfl
@[simp] theorem State.setCmd_timeSec (w : CommandWord) : (s.setCmd w).timeSec = s.timeSec := rfl
@[simp] theorem State.setCmd_timeNsec (w : CommandWord) : (s.setCmd w).timeNsec = s.timeNsec := rfl
@[simp] theorem State.setCmd_fv (w : CommandWord) : (s.setCmd w).fv = s.fv := rfl
@[simp] theorem State.setCmd_fh (w : CommandWord) : (s.setCmd w).fh = s.fh := rfl
@[simp] theorem State.setCmd_grp (w : CommandWord) : (s.setCmd w).grp = s.grp := rfl
@[simp] theorem State.setCmd_gh (w : CommandWord) : (s.setCmd w).gh = s.gh := rfl
@[simp] theorem State.setCmd_mem (w : CommandWord) : (s.setCmd w).mem = s.mem := rfl
@[simp] theorem State.setCmd_params (w : CommandWord) : (s.setCmd w).params = s.params := rfl
@[simp] theorem State.setCmd_inbox (w : CommandWord) : (s.setCmd w).inbox = s.inbox := rfl
@[simp] theorem State.setCmd_reply (w : CommandWord) : (s.setCmd w).reply = s.reply := rfl

/-! ### State.setReply -/

@[simp] theorem State.setReply_cmd (r : Reply) : (s.setReply r).cmd = s.cmd := rfl
@[simp] theorem State.setReply_status (r : Reply) : (s.setReply r).status = s.status := rfl
@[simp] theorem State.setReply_result (r : Reply) : (s.setReply r).result = s.result := rfl
@[simp] theorem State.setReply_dataIn (r : Reply) : (s.setReply r).dataIn = s.dataIn := rfl
@[simp] theorem State.setReply_dataOut (r : Reply) : (s.setReply r).dataOut = s.dataOut := rfl
@[simp] theorem State.setReply_avoidLen (r : Reply) : (s.setReply r).avoidLen = s.avoidLen := rfl
@[simp] theorem State.setReply_avoid (r : Reply) : (s.setReply r).avoid = s.avoid := rfl
@[simp] theorem State.setReply_timeSec (r : Reply) : (s.setReply r).timeSec = s.timeSec := rfl
@[simp] theorem State.setReply_timeNsec (r : Reply) : (s.setReply r).timeNsec = s.timeNsec := rfl
@[simp] theorem State.setReply_fv (r : Reply) : (s.setReply r).fv = s.fv := rfl
@[simp] theorem State.setReply_fh (r : Reply) : (s.setReply r).fh = s.fh := rfl
@[simp] theorem State.setReply_grp (r : Reply) : (s.setReply r).grp = s.grp := rfl
@[simp] theorem State.setReply_gh (r : Reply) : (s.setReply r).gh = s.gh := rfl
@[simp] theorem State.setReply_mem (r : Reply) : (s.setReply r).mem = s.mem := rfl
@[simp] theorem State.setReply_params (r : Reply) : (s.setReply r).params = s.params := rfl
@[simp] theorem State.setReply_inbox (r : Reply) : (s.setReply r).inbox = s.inbox := rfl
@[simp] theorem State.setReply_reply (r : Reply) : (s.setReply r).reply = r := rfl

/-! ### State.accept -/

@[simp] theorem State.accept_cmd (rest : List Transaction) : (s.accept rest).cmd = s.cmd := rfl
@[simp] theorem State.accept_status (rest : List Transaction) : (s.accept rest).status = s.status := rfl
@[simp] theorem State.accept_result (rest : List Transaction) : (s.accept rest).result = s.result := rfl
@[simp] theorem State.accept_dataIn (rest : List Transaction) : (s.accept rest).dataIn = s.dataIn := rfl
@[simp] theorem State.accept_dataOut (rest : List Transaction) : (s.accept rest).dataOut = s.dataOut := rfl
@[simp] theorem State.accept_avoidLen (rest : List Transaction) : (s.accept rest).avoidLen = s.avoidLen := rfl
@[simp] theorem State.accept_avoid (rest : List Transaction) : (s.accept rest).avoid = s.avoid := rfl
@[simp] theorem State.accept_timeSec (rest : List Transaction) : (s.accept rest).timeSec = s.timeSec := rfl
@[simp] theorem State.accept_timeNsec (rest : List Transaction) : (s.accept rest).timeNsec = s.timeNsec := rfl
@[simp] theorem State.accept_fv (rest : List Transaction) : (s.accept rest).fv = s.fv := rfl
@[simp] theorem State.accept_fh (rest : List Transaction) : (s.accept rest).fh = s.fh := rfl
@[simp] theorem State.accept_grp (rest : List Transaction) : (s.accept rest).grp = s.grp := rfl
@[simp] theorem State.accept_gh (rest : List Transaction) : (s.accept rest).gh = s.gh := rfl
@[simp] theorem State.accept_mem (rest : List Transaction) : (s.accept rest).mem = s.mem := rfl
@[simp] theorem State.accept_params (rest : List Transaction) : (s.accept rest).params = s.params := rfl
@[simp] theorem State.accept_inbox (rest : List Transaction) : (s.accept rest).inbox = rest := rfl
@[simp] theorem State.accept_reply (rest : List Transaction) : (s.accept rest).reply = .none := rfl

/-! ### The bind step and reset -/

@[simp] theorem bindView_cmd (base size : Nat) (mode : BitVec 2) :
    (bindView base size mode s).cmd = s.cmd := rfl
@[simp] theorem bindView_status (base size : Nat) (mode : BitVec 2) :
    (bindView base size mode s).status = s.status := rfl
@[simp] theorem bindView_result (base size : Nat) (mode : BitVec 2) :
    (bindView base size mode s).result = s.result := rfl
@[simp] theorem bindView_dataIn (base size : Nat) (mode : BitVec 2) :
    (bindView base size mode s).dataIn = s.dataIn := rfl
@[simp] theorem bindView_dataOut (base size : Nat) (mode : BitVec 2) :
    (bindView base size mode s).dataOut = s.dataOut := rfl
@[simp] theorem bindView_avoidLen (base size : Nat) (mode : BitVec 2) :
    (bindView base size mode s).avoidLen = s.avoidLen := rfl
@[simp] theorem bindView_avoid (base size : Nat) (mode : BitVec 2) :
    (bindView base size mode s).avoid = s.avoid := rfl
@[simp] theorem bindView_timeSec (base size : Nat) (mode : BitVec 2) :
    (bindView base size mode s).timeSec = s.timeSec := rfl
@[simp] theorem bindView_timeNsec (base size : Nat) (mode : BitVec 2) :
    (bindView base size mode s).timeNsec = s.timeNsec := rfl
@[simp] theorem bindView_fv (base size : Nat) (mode : BitVec 2) :
    (bindView base size mode s).fv = { bound := 1, mode := mode, base := BitVec.ofNat 16 base, size := BitVec.ofNat 12 size, cursor := 0 } := rfl
@[simp] theorem bindView_fh (base size : Nat) (mode : BitVec 2) :
    (bindView base size mode s).fh = if mode = modeWrite then FrameHeader.zero else desFH (s.mem.readBytes base fhSize) := rfl
@[simp] theorem bindView_grp (base size : Nat) (mode : BitVec 2) :
    (bindView base size mode s).grp = s.grp := rfl
@[simp] theorem bindView_gh (base size : Nat) (mode : BitVec 2) :
    (bindView base size mode s).gh = s.gh := rfl
@[simp] theorem bindView_mem (base size : Nat) (mode : BitVec 2) :
    (bindView base size mode s).mem = s.mem := rfl
@[simp] theorem bindView_params (base size : Nat) (mode : BitVec 2) :
    (bindView base size mode s).params = s.params := rfl
@[simp] theorem bindView_inbox (base size : Nat) (mode : BitVec 2) :
    (bindView base size mode s).inbox = s.inbox := rfl
@[simp] theorem bindView_reply (base size : Nat) (mode : BitVec 2) :
    (bindView base size mode s).reply = s.reply := rfl
@[simp] theorem bindCurrent_cmd (p : Nat) (mode : BitVec 2) :
    (bindCurrent p mode s).cmd = s.cmd := rfl
@[simp] theorem bindCurrent_status (p : Nat) (mode : BitVec 2) :
    (bindCurrent p mode s).status = s.status := rfl
@[simp] theorem bindCurrent_result (p : Nat) (mode : BitVec 2) :
    (bindCurrent p mode s).result = s.result := rfl
@[simp] theorem bindCurrent_dataIn (p : Nat) (mode : BitVec 2) :
    (bindCurrent p mode s).dataIn = s.dataIn := rfl
@[simp] theorem bindCurrent_dataOut (p : Nat) (mode : BitVec 2) :
    (bindCurrent p mode s).dataOut = s.dataOut := rfl
@[simp] theorem bindCurrent_avoidLen (p : Nat) (mode : BitVec 2) :
    (bindCurrent p mode s).avoidLen = s.avoidLen := rfl
@[simp] theorem bindCurrent_avoid (p : Nat) (mode : BitVec 2) :
    (bindCurrent p mode s).avoid = s.avoid := rfl
@[simp] theorem bindCurrent_timeSec (p : Nat) (mode : BitVec 2) :
    (bindCurrent p mode s).timeSec = s.timeSec := rfl
@[simp] theorem bindCurrent_timeNsec (p : Nat) (mode : BitVec 2) :
    (bindCurrent p mode s).timeNsec = s.timeNsec := rfl
@[simp] theorem bindCurrent_fv (p : Nat) (mode : BitVec 2) :
    (bindCurrent p mode s).fv = { bound := 1, mode := mode, base := BitVec.ofNat 16 p, size := BitVec.ofNat 12 (viewSizeAt s.grp.size.toNat p), cursor := 0 } := rfl
@[simp] theorem bindCurrent_fh (p : Nat) (mode : BitVec 2) :
    (bindCurrent p mode s).fh = if mode = modeWrite then FrameHeader.zero else desFH (s.mem.readBytes p fhSize) := rfl
@[simp] theorem bindCurrent_grp (p : Nat) (mode : BitVec 2) :
    (bindCurrent p mode s).grp = { s.grp with fc := BitVec.ofNat 16 p } := rfl
@[simp] theorem bindCurrent_gh (p : Nat) (mode : BitVec 2) :
    (bindCurrent p mode s).gh = s.gh := rfl
@[simp] theorem bindCurrent_mem (p : Nat) (mode : BitVec 2) :
    (bindCurrent p mode s).mem = s.mem := rfl
@[simp] theorem bindCurrent_params (p : Nat) (mode : BitVec 2) :
    (bindCurrent p mode s).params = s.params := rfl
@[simp] theorem bindCurrent_inbox (p : Nat) (mode : BitVec 2) :
    (bindCurrent p mode s).inbox = s.inbox := rfl
@[simp] theorem bindCurrent_reply (p : Nat) (mode : BitVec 2) :
    (bindCurrent p mode s).reply = s.reply := rfl
@[simp] theorem resetBlock_cmd : (resetBlock s).cmd = State.reset.cmd := rfl
@[simp] theorem resetBlock_status : (resetBlock s).status = State.reset.status := rfl
@[simp] theorem resetBlock_result : (resetBlock s).result = State.reset.result := rfl
@[simp] theorem resetBlock_dataIn : (resetBlock s).dataIn = State.reset.dataIn := rfl
@[simp] theorem resetBlock_dataOut : (resetBlock s).dataOut = State.reset.dataOut := rfl
@[simp] theorem resetBlock_avoidLen : (resetBlock s).avoidLen = State.reset.avoidLen := rfl
@[simp] theorem resetBlock_avoid : (resetBlock s).avoid = State.reset.avoid := rfl
@[simp] theorem resetBlock_timeSec : (resetBlock s).timeSec = State.reset.timeSec := rfl
@[simp] theorem resetBlock_timeNsec : (resetBlock s).timeNsec = State.reset.timeNsec := rfl
@[simp] theorem resetBlock_fv : (resetBlock s).fv = State.reset.fv := rfl
@[simp] theorem resetBlock_fh : (resetBlock s).fh = State.reset.fh := rfl
@[simp] theorem resetBlock_grp : (resetBlock s).grp = State.reset.grp := rfl
@[simp] theorem resetBlock_gh : (resetBlock s).gh = State.reset.gh := rfl
@[simp] theorem resetBlock_mem : (resetBlock s).mem = s.mem := rfl
@[simp] theorem resetBlock_params : (resetBlock s).params = s.params := rfl
@[simp] theorem resetBlock_inbox : (resetBlock s).inbox = s.inbox := rfl
@[simp] theorem resetBlock_reply : (resetBlock s).reply = State.reset.reply := rfl

end Sys2Proof.Machine
end

