-- ==== Sys2Proof/Laws/Memory.lean ====
section
/-! SUPPORT. The laws of M: every memory operation keeps the canonical form; a read after a write; lengths. -/

namespace Sys2Proof.Machine

/-! ### The canonical form -/

theorem Memory.risingFrom_mono {lo lo' : Nat} (h : lo' ≤ lo) :
    ∀ {cs : List Host.Cell}, Memory.risingFrom lo cs = true → Memory.risingFrom lo' cs = true
  | [], _ => rfl
  | (k, _) :: _, hc => by
    simp only [Memory.risingFrom, Bool.and_eq_true, decide_eq_true_eq] at hc ⊢
    exact ⟨by omega, hc.2⟩

/-- Below the first possible address nothing is listed. -/
theorem Memory.lookup_of_lt {a : Nat} :
    ∀ {cs : List Host.Cell} {lo : Nat}, Memory.risingFrom lo cs = true → a < lo →
      Memory.lookup cs a = Memory.unlisted
  | [], _, _, _ => rfl
  | (k, v) :: rest, lo, hc, ha => by
    simp only [Memory.risingFrom, Bool.and_eq_true, decide_eq_true_eq] at hc
    have hk : k ≠ a := by omega
    simp only [Memory.lookup, hk, if_false]
    exact Memory.lookup_of_lt hc.2 (by omega)

theorem Memory.lookup_cellOf_append (a : Nat) (v : Byte) (rest : List Host.Cell) (b : Nat)
    (h : v = Memory.unlisted → Memory.lookup rest a = Memory.unlisted) :
    Memory.lookup (Memory.cellOf a v ++ rest) b = if b = a then v else Memory.lookup rest b := by
  unfold Memory.cellOf
  by_cases hv : v = Memory.unlisted
  · by_cases hb : b = a
    · subst hb; simp [hv, h hv]
    · simp [hv, hb]
  · by_cases hb : b = a
    · simp [hv, hb, Memory.lookup]
    · have : ¬ a = b := fun e => hb e.symm
      simp [hv, hb, this, Memory.lookup]

theorem Memory.lookup_insertCell (a : Nat) (v : Byte) (b : Nat) :
    ∀ {cs : List Host.Cell} {lo : Nat}, Memory.risingFrom lo cs = true →
      Memory.lookup (Memory.insertCell a v cs) b = if b = a then v else Memory.lookup cs b
  | [], _, _ => by
    have := Memory.lookup_cellOf_append a v [] b (fun _ => rfl)
    simpa [Memory.insertCell] using this
  | (k, w) :: rest, lo, hc => by
    simp only [Memory.risingFrom, Bool.and_eq_true, decide_eq_true_eq] at hc
    have tail : ∀ x, x ≤ k → Memory.lookup rest x = Memory.unlisted := fun x hx =>
      Memory.lookup_of_lt hc.2 (by omega)
    unfold Memory.insertCell
    by_cases h1 : k < a
    · have ih := Memory.lookup_insertCell a v b hc.2
      by_cases h2 : k = b
      · subst h2
        have : ¬ k = a := by omega
        simp [Memory.lookup, h1, this]
      · simp [Memory.lookup, h1, h2, ih]
    · by_cases h2 : k = a
      · subst h2
        have := Memory.lookup_cellOf_append k v rest b (fun _ => tail k (Nat.le_refl k))
        by_cases hb : b = k
        · subst hb; simpa using this
        · have hb' : ¬ k = b := fun e => hb e.symm
          simp [this, hb, hb', Memory.lookup]
      · have ha : a < k := by omega
        have : Memory.lookup ((k, w) :: rest) a = Memory.unlisted := by
          simp [Memory.lookup, h2, tail a (by omega)]
        have := Memory.lookup_cellOf_append a v ((k, w) :: rest) b (fun _ => this)
        simp [h1, h2, this]

theorem Memory.risingFrom_cellOf_append {a lo : Nat} {v : Byte} {rest : List Host.Cell} (h1 : lo ≤ a)
    (h2 : Memory.risingFrom (a + 1) rest = true) :
    Memory.risingFrom lo (Memory.cellOf a v ++ rest) = true := by
  unfold Memory.cellOf
  split
  · exact Memory.risingFrom_mono (by omega) h2
  · simp [Memory.risingFrom, h1, h2]

theorem Memory.risingFrom_insertCell (a : Nat) (v : Byte) :
    ∀ {cs : List Host.Cell} {lo : Nat}, lo ≤ a → Memory.risingFrom lo cs = true →
      Memory.risingFrom lo (Memory.insertCell a v cs) = true
  | [], _, hl, _ => by
    simpa [Memory.insertCell] using Memory.risingFrom_cellOf_append (v := v) hl (rest := []) rfl
  | (k, w) :: rest, lo, hl, hc => by
    have hc' := hc
    simp only [Memory.risingFrom, Bool.and_eq_true, decide_eq_true_eq] at hc'
    unfold Memory.insertCell
    by_cases h1 : k < a
    · simp [h1, Memory.risingFrom, hc'.1, Memory.risingFrom_insertCell a v (Nat.succ_le_of_lt h1) hc'.2]
    · by_cases h2 : k = a
      · subst h2
        simpa using Memory.risingFrom_cellOf_append hl hc'.2
      · simp only [h1, h2, if_false]
        refine Memory.risingFrom_cellOf_append hl ?_
        simp only [Memory.risingFrom, Bool.and_eq_true, decide_eq_true_eq]
        exact ⟨by omega, hc'.2⟩

theorem Memory.all_insertCell (p : Host.Cell → Bool) (a : Nat) (v : Byte)
    (hp : v ≠ Memory.unlisted → p (a, v) = true) :
    ∀ {cs : List Host.Cell}, cs.all p = true → (Memory.insertCell a v cs).all p = true
  | [], _ => by
    by_cases hv : v = Memory.unlisted <;> simp [Memory.insertCell, Memory.cellOf, hv, hp]
  | (k, w) :: rest, hc => by
    simp only [List.all_cons, Bool.and_eq_true] at hc
    unfold Memory.insertCell
    by_cases h1 : k < a
    · simp [h1, hc.1, Memory.all_insertCell p a v hp hc.2]
    · have hcell : (Memory.cellOf a v).all p = true := by
        by_cases hv : v = Memory.unlisted <;> simp [Memory.cellOf, hv, hp]
      rw [if_neg h1]
      split
      · rw [List.all_append, hcell, hc.2]; rfl
      · rw [List.all_append, hcell, List.all_cons, hc.1, hc.2]; rfl

/-- Storing a byte keeps the canonical form. -/
theorem Memory.wf_writeByte {m : Memory} (h : m.wf = true) (a : Nat) (v : Byte) :
    (m.writeByte a v).wf = true := by
  unfold Memory.writeByte
  split
  case isFalse => exact h
  case isTrue ha =>
    simp only [Memory.wf, Bool.and_eq_true] at h ⊢
    refine ⟨Memory.risingFrom_insertCell a v (Nat.zero_le a) h.1, ?_⟩
    exact Memory.all_insertCell _ a v (by intro hv; simp [ha, hv]) h.2

/-- Storing a byte sequence keeps the canonical form. -/
theorem Memory.wf_writeBytes (bs : List Byte) :
    ∀ {m : Memory}, m.wf = true → ∀ a, (m.writeBytes a bs).wf = true := by
  induction bs with
  | nil => intro m h a; exact h
  | cons b bs ih => intro m h a; exact ih (Memory.wf_writeByte h a b) (a + 1)

/-- Cleared memory is in canonical form. -/
theorem Memory.wf_cleared : Memory.cleared.wf = true := rfl

/-- Reset's memory is in canonical form. -/
theorem Memory.wf_reset : State.reset.mem.wf = true := rfl

/-! ### Reads after writes -/

@[simp] theorem Memory.readByte_cleared (a : Nat) : Memory.cleared.readByte a = 0 := rfl

theorem Memory.readByte_writeByte {m : Memory} (h : m.wf = true) (a : Nat) (v : Byte) (b : Nat) :
    (m.writeByte a v).readByte b = if b = a ∧ a < memSize then v else m.readByte b := by
  simp only [Memory.wf, Bool.and_eq_true] at h
  unfold Memory.writeByte
  by_cases ha : a < memSize
  · simp only [ha, if_true, and_true, Memory.readByte]
    exact Memory.lookup_insertCell a v b h.1
  · simp [ha]

/-- Reading back a stored byte sequence: inside it the stored bytes, outside it what was there before. -/
theorem Memory.readByte_writeBytes (bs : List Byte) :
    ∀ {m : Memory}, m.wf = true → ∀ a b, a + bs.length ≤ memSize →
      (m.writeBytes a bs).readByte b =
        if a ≤ b ∧ b < a + bs.length then bs.getD (b - a) 0 else m.readByte b := by
  induction bs with
  | nil => intro m _ a b _; simp [Memory.writeBytes]
  | cons v bs ih =>
    intro m h a b hl
    simp only [List.length_cons] at hl
    rw [Memory.writeBytes, ih (Memory.wf_writeByte h a v) (a + 1) b (by omega), Memory.readByte_writeByte h]
    have ha : a < memSize := by omega
    by_cases h1 : b = a
    · subst h1
      simp [ha]
    · by_cases h2 : a + 1 ≤ b ∧ b < a + 1 + bs.length
      · have h3 : a ≤ b ∧ b < a + (v :: bs).length := by simp only [List.length_cons]; omega
        have h4 : b - a = (b - (a + 1)) + 1 := by omega
        simp only [h2, h3, h4, and_self, if_true, List.getD_cons_succ]
      · have h3 : ¬ (a ≤ b ∧ b < a + (v :: bs).length) := by simp only [List.length_cons]; omega
        have h4 : ¬ (b = a ∧ a < memSize) := fun e => h1 e.1
        rw [if_neg h2, if_neg h3, if_neg h4]

theorem Memory.readByte_writeBytes_outside {m : Memory} (h : m.wf = true) {bs : List Byte} {a b : Nat}
    (hl : a + bs.length ≤ memSize) (hb : b < a ∨ a + bs.length ≤ b) :
    (m.writeBytes a bs).readByte b = m.readByte b := by
  rw [Memory.readByte_writeBytes bs h a b hl]
  exact if_neg (by omega)

@[simp] theorem Memory.length_readBytes (m : Memory) (n : Nat) : ∀ a, (m.readBytes a n).length = n := by
  induction n with
  | zero => intro a; rfl
  | succ n ih => intro a; simp [Memory.readBytes, ih]

theorem Memory.getD_readBytes (m : Memory) (n : Nat) :
    ∀ a j, j < n → (m.readBytes a n).getD j 0 = m.readByte (a + j) := by
  induction n with
  | zero => intro a j hj; omega
  | succ n ih =>
    intro a j hj
    cases j with
    | zero => simp [Memory.readBytes]
    | succ j =>
      have := ih (a + 1) j (by omega)
      have e : a + 1 + j = a + (j + 1) := by omega
      simpa [Memory.readBytes, e] using this

/-- A byte sequence depends only on the bytes it reads. -/
theorem Memory.readBytes_congr {m m' : Memory} (n : Nat) :
    ∀ a, (∀ x, a ≤ x → x < a + n → m'.readByte x = m.readByte x) → m'.readBytes a n = m.readBytes a n := by
  induction n with
  | zero => intro a _; rfl
  | succ n ih =>
    intro a h
    simp only [Memory.readBytes]
    rw [h a (Nat.le_refl a) (by omega), ih (a + 1) fun x h1 h2 => h x (by omega) (by omega)]

/-- Reading a range just stored gives what was stored. -/
theorem Memory.readBytes_writeBytes {m : Memory} (h : m.wf = true) {bs : List Byte} {a : Nat}
    (hl : a + bs.length ≤ memSize) : (m.writeBytes a bs).readBytes a bs.length = bs := by
  refine List.ext_getElem (by simp) fun j h1 h2 => ?_
  have hj : j < bs.length := h2
  have e := Memory.getD_readBytes (m.writeBytes a bs) bs.length a j hj
  rw [Memory.readByte_writeBytes bs h a (a + j) hl, if_pos (by omega)] at e
  have e2 : a + j - a = j := by omega
  rw [e2] at e
  simpa [List.getD_eq_getElem?_getD, List.getElem?_eq_getElem h1, List.getElem?_eq_getElem hj] using e

end Sys2Proof.Machine
end

