-- ==== Sys2Proof/Laws/Ops.lean ====
section
/-! SUPPORT. For each shared operation, once, everything it can do: the end of a command, an engine access, the checks that guard
a command, and the byte order. -/

namespace Sys2Proof.Machine

variable {s t : State} {k : Outcome}

/-! ### The end of a command -/

theorem finish_next {st : Status} {res : BitVec 32} : finish st res s = .next t ↔ t = s.finished st res := by
  unfold finish
  constructor
  · intro h; injection h with h; exact h.symm
  · intro h; rw [h]

theorem fail_next {st : Status} : fail st s = .next t ↔ t = s.finished st 0#32 := finish_next

/-- An engine access that goes on stayed within M. -/
theorem access_next {a n : Nat} : access a n k = .next t ↔ a + n ≤ memSize ∧ k = .next t := by
  unfold access
  by_cases h : a + n ≤ memSize
  · rw [if_pos h]; exact ⟨fun e => ⟨h, e⟩, fun e => e.2⟩
  · rw [if_neg h]
    constructor
    · intro e; cases e
    · intro e; exact absurd e.1 h

theorem access_of_le {a n : Nat} (h : a + n ≤ memSize) : access a n k = k := if_pos h

/-! ### The checks that guard a command -/

/-- The unbound check: unbound, the command fails so; bound, it is the command's own. -/
theorem whenBound_next :
    whenBound s k = .next t ↔
      (s.fv.bound = 0#1 ∧ t = s.finished .errUnbound 0#32) ∨ (s.fv.bound = 1#1 ∧ k = .next t) := by
  have two : s.fv.bound = 0#1 ∨ s.fv.bound = 1#1 := by
    generalize s.fv.bound = b; revert b; decide
  unfold whenBound
  rcases two with h | h
  · simp [h, fail_next]
  · simp [h]

theorem whenBound_of_bound (h : s.fv.bound = 1#1) : whenBound s k = k := by
  simp [whenBound, h]

/-- The group-mode check: in a mode the command does not accept it fails so; else it is the command's own. -/
theorem whenGroup_next {modes : List (BitVec 2)} :
    whenGroup modes s k = .next t ↔
      (s.grp.mode ∉ modes ∧ t = s.finished .errCapability 0#32) ∨ (s.grp.mode ∈ modes ∧ k = .next t) := by
  unfold whenGroup
  by_cases h : s.grp.mode ∈ modes <;> simp [h, fail_next]

theorem whenGroup_of_mem {modes : List (BitVec 2)} (h : s.grp.mode ∈ modes) : whenGroup modes s k = k := if_pos h

/-- A valid view's size terms hold. -/
theorem headerFits_of_viewValid (h : s.viewValid = true) : headerFits s.fh s.fv.size.toNat = true := by
  simp only [State.viewValid, frameValid, Bool.and_eq_true] at h
  exact h.1

theorem fits_le {h : FrameHeader} {size : Nat} (hf : headerFits h size = true) : fhSize + h.len.toNat ≤ size := by
  simp only [headerFits, Bool.and_eq_true, decide_eq_true_eq] at hf
  exact hf.1.2

/-- Evaluating Valid(FV): the command goes on with its value, the payload read having stayed within M where it was made. -/
theorem withViewValid_next {f : Bool → Outcome} :
    withViewValid s f = .next t ↔
      f s.viewValid = .next t ∧
        (headerFits s.fh s.fv.size.toNat = true → s.payloadBase + s.fh.len.toNat ≤ memSize) := by
  unfold withViewValid
  by_cases h : headerFits s.fh s.fv.size.toNat = true
  · rw [if_pos h, access_next]
    exact ⟨fun e => ⟨e.2, fun _ => e.1⟩, fun e => ⟨e.2 h, e.1⟩⟩
  · have hv : s.viewValid = false := by
      cases hv : s.viewValid with
      | false => rfl
      | true => exact absurd (headerFits_of_viewValid hv) h
    rw [if_neg h, hv]
    exact ⟨fun e => ⟨e, fun h' => absurd h' h⟩, fun e => e.1⟩

/-- In a view that lies in M, evaluating Valid(FV) does not stop. -/
theorem withViewValid_of_view {f : Bool → Outcome} (h : s.fv.base.toNat + s.fv.size.toNat ≤ memSize) :
    withViewValid s f = f s.viewValid := by
  unfold withViewValid
  by_cases hf : headerFits s.fh s.fv.size.toNat = true
  · rw [if_pos hf, access_of_le]
    have := fits_le hf
    simp only [State.payloadBase]
    omega
  · have hv : s.viewValid = false := by
      cases hv : s.viewValid with
      | false => rfl
      | true => exact absurd (headerFits_of_viewValid hv) hf
    rw [if_neg hf, hv]

/-! ### Byte order -/

@[simp] theorem length_beBytes (n v : Nat) : (beBytes n v).length = n := by
  induction n with
  | zero => rfl
  | succ n ih => simp [beBytes, ih]

/-- Byte j of the n-byte big-endian sequence. -/
theorem getD_beBytes (n v j : Nat) (h : j < n) :
    (beBytes n v).getD j 0 = BitVec.ofNat 8 (v / 2 ^ (8 * (n - 1 - j))) := by
  induction n generalizing j with
  | zero => omega
  | succ n ih =>
    cases j with
    | zero => simp [beBytes]
    | succ j =>
      rw [beBytes, List.getD_cons_succ, ih j (by omega)]
      congr 3
      omega

theorem beNat_append (xs ys : List Byte) : beNat (xs ++ ys) = beNat xs * 256 ^ ys.length + beNat ys := by
  have key : ∀ (ys : List Byte) (acc : Nat),
      ys.foldl (fun acc b => acc * 256 + b.toNat) acc = acc * 256 ^ ys.length + beNat ys := by
    intro ys
    induction ys with
    | nil => intro acc; simp [beNat]
    | cons y ys ih =>
      intro acc
      have h0 := ih (0 * 256 + y.toNat)
      simp only [beNat, List.foldl_cons, List.length_cons] at h0 ⊢
      rw [ih, h0]
      simp only [beNat]
      ring
  rw [beNat, List.foldl_append, key]
  rfl

theorem beNat_cons (b : Byte) (bs : List Byte) : beNat (b :: bs) = b.toNat * 256 ^ bs.length + beNat bs := by
  have := beNat_append [b] bs
  simpa [beNat] using this

theorem beNat_lt (bs : List Byte) : beNat bs < 256 ^ bs.length := by
  induction bs with
  | nil => simp [beNat]
  | cons b bs ih =>
    rw [beNat_cons, List.length_cons, pow_succ]
    have := b.isLt
    have h2 : b.toNat * 256 ^ bs.length ≤ 255 * 256 ^ bs.length := Nat.mul_le_mul_right _ (by omega)
    omega

/-- Reading back a big-endian sequence gives the value masked to its bytes. -/
theorem beNat_beBytes (n v : Nat) : beNat (beBytes n v) = v % 256 ^ n := by
  induction n with
  | zero => simp [beBytes, beNat, Nat.mod_one]
  | succ n ih =>
    have e : (2 : Nat) ^ (8 * n) = 256 ^ n := by rw [pow_mul]; norm_num
    have e2 : (2 : Nat) ^ 8 = 256 := rfl
    rw [beBytes, beNat_cons, ih, length_beBytes, BitVec.toNat_ofNat, e, e2, Nat.mod_pow_succ]
    rw [Nat.mul_comm, Nat.add_comm]

/-- Writing a byte sequence's value back gives the sequence. -/
theorem beBytes_beNat (bs : List Byte) : beBytes bs.length (beNat bs) = bs := by
  have shift : ∀ (n v c : Nat), beBytes n (c * 256 ^ n + v) = beBytes n v := by
    intro n
    induction n with
    | zero => intros; rfl
    | succ n ih =>
      intro v c
      have e : (2 : Nat) ^ (8 * n) = 256 ^ n := by rw [pow_mul]; norm_num
      have hpos : 0 < 256 ^ n := Nat.pow_pos (by omega)
      have e2 : c * 256 ^ (n + 1) + v = (c * 256) * 256 ^ n + v := by rw [pow_succ]; ring
      simp only [beBytes, e, e2, ih, List.cons.injEq, and_true]
      rw [Nat.mul_comm (c * 256), Nat.mul_add_div hpos]
      apply BitVec.eq_of_toNat_eq
      simp only [BitVec.toNat_ofNat]
      omega
  induction bs with
  | nil => rfl
  | cons b bs ih =>
    have e : (2 : Nat) ^ (8 * bs.length) = 256 ^ bs.length := by rw [pow_mul]; norm_num
    have hpos : 0 < 256 ^ bs.length := Nat.pow_pos (by omega)
    rw [List.length_cons, beBytes, beNat_cons, shift, ih, e]
    congr 1
    rw [Nat.mul_comm, Nat.mul_add_div hpos, Nat.div_eq_of_lt (beNat_lt bs)]
    simp

end Sys2Proof.Machine
end

