-- ==== Sys2Proof/Laws/Headers.lean ====
section
/-! SUPPORT. Lengths of the serialized headers, and what the deserializers read from a serialized word. -/

namespace Sys2Proof.Machine

@[simp] theorem length_serFH (h : FrameHeader) : (serFH h).length = fhSize := by simp [serFH]

@[simp] theorem length_serGH (h : GroupHeader) : (serGH h).length = ghSize := by simp [serGH]

/-- The sentinel's five bytes (30_encoding.md rule R82). -/
theorem serFH_sentinel : serFH sentinelHeader = [0x7E#8, 0xFE#8, 0x00#8, 0x00#8, 0x00#8] := by decide

/-- DesFH depends only on the 40-bit number its bytes stand for. -/
theorem beNat_serFH (h : FrameHeader) : beNat (serFH h) = h.word.toNat := by
  rw [serFH, beNat_beBytes]
  exact Nat.mod_eq_of_lt h.word.isLt

end Sys2Proof.Machine
end

