-- ==== Sys2Proof/Laws/PerInstr.lean ====
section
/-! SUPPORT. What holds of every command as syntax, one lemma per constructor of Instr. EncodeMatchesRow: a command's word carries
its own row's opcode and has every must-be-zero field of the row zero (30_encoding.md rules R71 and R78). -/

namespace Sys2Proof.Laws

/-- Two words with the same bits are the same. -/
theorem word_ext {x y : CommandWord} (h : ∀ i, i < 64 → x.getLsbD i = y.getLsbD i) : x = y :=
  BitVec.eq_of_getLsbD_eq h

/-- A bit of a packed word is a bit of the field it lies in (30_encoding.md rule R70). -/
theorem getLsbD_packWord (opc f : BitVec 8) (a b : BitVec 16) (i : Nat) :
    (packWord opc f a b).getLsbD i =
      if i < 8 then opc.getLsbD i
      else if i < 16 then f.getLsbD (i - 8)
      else if i < 32 then a.getLsbD (i - 16)
      else if i < 48 then b.getLsbD (i - 32)
      else false := by
  unfold packWord
  simp only [BitVec.getLsbD_append]
  by_cases h1 : i < 8
  · simp [h1]
  · by_cases h2 : i < 16
    · have : i - 8 < 8 := by omega
      simp [h1, h2, this]
    · by_cases h3 : i < 32
      · have e1 : ¬ i - 8 < 8 := by omega
        have e2 : i - 8 - 8 < 16 := by omega
        have e3 : i - 8 - 8 = i - 16 := by omega
        rw [e3] at e2
        simp [h1, h2, h3, e1, e2, e3]
      · by_cases h4 : i < 48
        · have e1 : ¬ i - 8 < 8 := by omega
          have e2 : ¬ i - 8 - 8 < 16 := by omega
          have e3 : i - 8 - 8 - 16 < 16 := by omega
          have e4 : i - 8 - 8 - 16 = i - 32 := by omega
          rw [e4] at e3
          simp [h1, h2, h3, h4, e1, e2, e3, e4]
        · have e1 : ¬ i - 8 < 8 := by omega
          have e2 : ¬ i - 8 - 8 < 16 := by omega
          have e3 : ¬ i - 8 - 8 - 16 < 16 := by omega
          simp [h1, h2, h3, h4, e1, e2, e3]

namespace EncodeMatchesRow

/-- The row of a command's mnemonic accepts its word. -/
def Statement (i : Instr) : Prop :=
  ∃ r ∈ opcodeMap, r.mnemonic = i.mnemonic ∧ encode i &&& r.format.mask = r.mtch

theorem fBind (base size : BitVec 16) (mode : BitVec 8) : Statement (.fBind base size mode) := by
  refine ⟨⟨"F.BIND", .b, 0x01#64⟩, by decide, rfl, word_ext fun i hi => ?_⟩
  simp only [encode, BitVec.getLsbD_and, getLsbD_packWord, Format.mask]
  interval_cases i <;> simp

theorem fWrdata (width : BitVec 8) : Statement (.fWrdata width) := by
  refine ⟨⟨"F.WRDATA", .w, 0x02#64⟩, by decide, rfl, word_ext fun i hi => ?_⟩
  simp only [encode, BitVec.getLsbD_and, getLsbD_packWord, Format.mask]
  interval_cases i <;> simp

theorem fRddata (width : BitVec 8) : Statement (.fRddata width) := by
  refine ⟨⟨"F.RDDATA", .w, 0x03#64⟩, by decide, rfl, word_ext fun i hi => ?_⟩
  simp only [encode, BitVec.getLsbD_and, getLsbD_packWord, Format.mask]
  interval_cases i <;> simp

theorem fWrhdr (id : BitVec 7) : Statement (.fWrhdr id) := by
  refine ⟨⟨"F.WRHDR", .h, 0x04#64⟩, by decide, rfl, word_ext fun i hi => ?_⟩
  simp only [encode, BitVec.getLsbD_and, getLsbD_packWord, Format.mask]
  interval_cases i <;> simp

theorem fIsvalid : Statement .fIsvalid := ⟨⟨"F.ISVALID", .n, 0x05#64⟩, by decide, rfl, by decide⟩

theorem fIseog : Statement .fIseog := ⟨⟨"F.ISEOG", .n, 0x06#64⟩, by decide, rfl, by decide⟩

theorem fStuff : Statement .fStuff := ⟨⟨"F.STUFF", .n, 0x07#64⟩, by decide, rfl, by decide⟩

theorem fDestuff : Statement .fDestuff := ⟨⟨"F.DESTUFF", .n, 0x08#64⟩, by decide, rfl, by decide⟩

theorem fMsgsize : Statement .fMsgsize := ⟨⟨"F.MSGSIZE", .n, 0x09#64⟩, by decide, rfl, by decide⟩

theorem fProcsize : Statement .fProcsize := ⟨⟨"F.PROCSIZE", .n, 0x0A#64⟩, by decide, rfl, by decide⟩

theorem gOpenw : Statement .gOpenw := ⟨⟨"G.OPENW", .n, 0x10#64⟩, by decide, rfl, by decide⟩

theorem gOpenr (size : BitVec 16) : Statement (.gOpenr size) := by
  refine ⟨⟨"G.OPENR", .s, 0x11#64⟩, by decide, rfl, word_ext fun i hi => ?_⟩
  simp only [encode, BitVec.getLsbD_and, getLsbD_packWord, Format.mask]
  interval_cases i <;> simp

theorem gCommit : Statement .gCommit := ⟨⟨"G.COMMIT", .n, 0x12#64⟩, by decide, rfl, by decide⟩

theorem gNext : Statement .gNext := ⟨⟨"G.NEXT", .n, 0x13#64⟩, by decide, rfl, by decide⟩

theorem gTrailer : Statement .gTrailer := ⟨⟨"G.TRAILER", .n, 0x14#64⟩, by decide, rfl, by decide⟩

theorem gHdrvalid : Statement .gHdrvalid := ⟨⟨"G.HDRVALID", .n, 0x15#64⟩, by decide, rfl, by decide⟩

theorem gCalcsize : Statement .gCalcsize := ⟨⟨"G.CALCSIZE", .n, 0x16#64⟩, by decide, rfl, by decide⟩

end EncodeMatchesRow

end Sys2Proof.Laws
end

