-- ==== Sys2Proof/Laws/Scanner.lean ====
section
/-! SUPPORT. Where the scanner's loops stop: every offset they answer was probed inside the group's buffer. -/

namespace Sys2Proof.Machine

/-- The offset a scan stops at. -/
def ScanStop.offset? : ScanStop → Option Nat
  | .sentinel p => some p
  | .frame p => some p
  | .bufferEnd => none

/-- A scan that stops at an offset stops at or after its start, with a whole header inside the buffer. -/
theorem scanNext_bounds {pr : Params} {m : Memory} {gsize q : Nat} :
    ∀ {fuel p : Nat}, (scanNext pr m gsize fuel p).offset? = some q → p ≤ q ∧ q + fhSize ≤ gsize := by
  intro fuel
  induction fuel with
  | zero => intro p h; simp [scanNext, ScanStop.offset?] at h
  | succ fuel ih =>
    intro p h
    unfold scanNext at h
    split at h
    · simp [ScanStop.offset?] at h
    · rename_i hin
      split at h
      · have := ih h; omega
      · split at h
        · simp only [ScanStop.offset?, Option.some.injEq] at h; omega
        · split at h
          · simp only [ScanStop.offset?, Option.some.injEq] at h; omega
          · have := ih h; omega

/-- A probe that answers Valid has its whole frame inside the buffer. -/
theorem probeValid_le {pr : Params} {m : Memory} {gsize p : Nat} (h : probeValid pr m gsize p = true)
    (hp : p ≤ gsize) : p + fhSize + (probeHeader m p).len.toNat ≤ gsize := by
  simp only [probeValid, frameValid, Bool.and_eq_true] at h
  have := fits_le h.1
  simp only [viewSizeAt] at this
  omega

end Sys2Proof.Machine
end

