-- ==== Sys2Proof/Laws/Stuffing.lean ====
section
/-! SUPPORT. The lengths the stuffing scans give. -/

namespace Sys2Proof.Machine

theorem length_drop_of_isPrefixOf {p xs : List Byte} (h : p.isPrefixOf xs = true) :
    (xs.drop p.length).length + p.length = xs.length := by
  have := (List.isPrefixOf_iff_prefix.mp h).length_le
  simp only [List.length_drop]
  omega

/-- The stuffed payload is the payload plus one byte per escape (42_stuffing.md rule R162). -/
theorem stuffScan_length {p : List Byte} (hp : p ≠ []) (e : Byte) :
    ∀ (fuel : Nat) (src : List Byte), src.length ≤ fuel →
      (stuffScan p e fuel src).1.length = src.length + (stuffScan p e fuel src).2 := by
  intro fuel
  induction fuel with
  | zero =>
    intro src h
    have : src = [] := List.length_eq_zero_iff.mp (by omega)
    simp [stuffScan, this]
  | succ fuel ih =>
    intro src h
    match src with
    | [] => rfl
    | b :: rest =>
      simp only [List.length_cons] at h
      have hpos : 0 < p.length := List.length_pos_iff.mpr hp
      simp only [stuffScan]
      split
      case isTrue hm =>
        have hl := length_drop_of_isPrefixOf hm
        simp only [List.length_cons] at hl
        have := ih ((b :: rest).drop p.length) (by omega)
        simp only [List.length_append, List.length_cons, this]
        omega
      case isFalse =>
        have := ih rest (by omega)
        simp only [List.length_cons, this]
        omega

theorem stuffBytes_length {p : List Byte} (hp : p ≠ []) (e : Byte) (src : List Byte) :
    (stuffBytes p e src).1.length = src.length + (stuffBytes p e src).2 :=
  stuffScan_length hp e src.length src (Nat.le_refl _)

/-- The destuffed payload plus one byte per escape is the payload (42_stuffing.md rule R163). -/
theorem destuffScan_length {p : List Byte} {e : Byte} :
    ∀ {fuel : Nat} {src : List Byte} {out : List Byte × Nat}, src.length ≤ fuel →
      destuffScan p e fuel src = some out → out.1.length + out.2 = src.length := by
  intro fuel
  induction fuel with
  | zero =>
    intro src out h he
    have : src = [] := List.length_eq_zero_iff.mp (by omega)
    simp only [destuffScan, Option.some.injEq] at he
    simp [this, ← he]
  | succ fuel ih =>
    intro src out h he
    match src with
    | [] =>
      simp only [destuffScan, Option.some.injEq] at he
      simp [← he]
    | b :: rest =>
      simp only [List.length_cons] at h
      simp only [destuffScan] at he
      split at he
      case isTrue hm =>
        have hl := length_drop_of_isPrefixOf hm
        split at he
        · exact absurd he (by simp)
        · rename_i x tail hd
          rw [hd] at hl
          simp only [List.length_cons] at hl
          split at he
          · simp only [Option.map_eq_some_iff] at he
            obtain ⟨r, hr, rfl⟩ := he
            have := ih (by omega) hr
            simp only [List.length_append, List.length_cons]
            omega
          · exact absurd he (by simp)
      case isFalse =>
        simp only [Option.map_eq_some_iff] at he
        obtain ⟨r, hr, rfl⟩ := he
        have := ih (by omega) hr
        simp only [List.length_cons]
        omega

theorem destuffBytes_length {p : List Byte} {e : Byte} {src : List Byte} {out : List Byte × Nat}
    (h : destuffBytes p e src = some out) : out.1.length + out.2 = src.length :=
  destuffScan_length (Nat.le_refl _) h

/-- P of an avoid sequence that is OK is not empty, and is one byte shorter than the sequence. -/
theorem avoidHead_length {s : State} (h : s.avoidOk = true) : s.avoidHead.length + 1 = s.seqLen := by
  simp only [State.avoidOk, Bool.and_eq_true, decide_eq_true_eq, avoidMax] at h
  simp only [State.avoidHead, List.length_take, Vector.length_toList]
  omega

end Sys2Proof.Machine
end

