-- ==== Sys2Proof/Tests/Slice0.lean ====
section
/-! SUPPORT. The model's own tests: expected values are those of 95_test_vectors.md and of the rules' examples (parameter set EX of
00_scope.md rule R9), and, last, a state that meets the hypotheses of each statement that has any. -/

namespace Sys2Proof.Tests

open Sys2Proof.Machine

-- One test after another: tests that all wait for the kernel at once each hold a thread's stack.
set_option Elab.async false

/-! ### Small states -/

/-- The example parameter set EX (00_scope.md rule R9), GROUP_MIN_SIZE 18. -/
def exParams : Params :=
  { frameCrcPoly := 0x0805, frameCrcInit := 0, groupCrcPoly := 0x07, groupCrcInit := 0, groupMinSize := 18 }

/-- Reset, with EX. -/
def blank : State := { State.reset with params := exParams }

/-- s with bytes stored at a. -/
def load (a : Nat) (bs : List Byte) (s : State) : State := s.setMem (s.mem.writeBytes a bs)

/-- The next state of an outcome, if it is one. -/
def nextOf : Outcome → Option State
  | .next t => some t
  | .fault _ => none
  | .refused _ => none

/-- STATUS and RESULT after a command. -/
def codes (o : Outcome) : Option (Nat × Nat) := (nextOf o).map fun t => (t.status.toNat, t.result.toNat)

/-- s with an avoid sequence of up to 16 bytes in AVOID and AVOID_LEN. -/
def avoiding (bs : List Byte) (s : State) : State :=
  { s with avoid := Vector.ofFn fun k => bs.getD k.val 0, avoidLen := BitVec.ofNat 8 bs.length }

/-- The frame of 41_frame.md rule R135: id 10, payload 01 02 03 04 05. -/
def frameBytes : List Byte := [0x7E, 0x14, 0x01, 0x72, 0x48, 0x01, 0x02, 0x03, 0x04, 0x05]

/-- That frame at 0x100 in a ReadWrite view of 32 bytes, its header cached, the cursor at its end. -/
def frameState : State :=
  ((load 0x100 frameBytes blank).setView { bound := 1, mode := 3, base := 0x100, size := 32, cursor := 5 }).setFh
    { magic := 0x7E, id := 10, len := 5, crc := 0x3248 }

/-- A ReadWrite view of 11 bytes at 0 with the payload 7E 7E 7E written and avoid sequence 7E 01 (95_test_vectors.md section 2.5). -/
def stuffState : State :=
  ((avoiding [0x7E, 0x01] (load 5 [0x7E, 0x7E, 0x7E] blank)).setView
    { bound := 1, mode := 3, base := 0, size := 11, cursor := 3 })

/-- A group of one zero-payload frame (id 5) and the sentinel, written by the rules under EX: 13 + 5 + 5 bytes. -/
def groupBytes : List Byte :=
  [0xAA, 0x00, 0x00, 0x00, 0x00, 0x00, 0x00, 0x00, 0x00, 0x00, 0x00, 0x2D, 0xDB,
   0x7E, 0x0A, 0x00, 0x0A, 0xB1, 0x7E, 0xFE, 0x00, 0x00, 0x00]

/-- Its group header. -/
def groupHeader : GroupHeader :=
  { magic := 0xAA, vers := 0, tsSec := 0, tsNsec := 0, numFrames := 1, headerLen := 13, hcrc := 0xDB }

/-- That group open for reading, at its first frame. -/
def readState : State :=
  ((((load 0 groupBytes blank).setGroup { mode := 1, size := 23, fc := 13, frames := 0 }).setGh groupHeader).setView
    { bound := 1, mode := 1, base := 13, size := 10, cursor := 0 }).setFh
    { magic := 0x7E, id := 5, len := 0, crc := 0x0AB1 }

/-- A group open for writing, with one zero-payload frame (id 5) finalized at 13 and not committed yet. -/
def writeState : State :=
  (((load 13 [0x7E, 0x0A, 0x00, 0x0A, 0xB1] blank).setGroup { mode := 2, size := 65535, fc := 13, frames := 0 }).setView
    { bound := 1, mode := 2, base := 13, size := 2052, cursor := 0 }).setFh
    { magic := 0x7E, id := 5, len := 0, crc := 0x0AB1 }

/-- s with one transaction offered. -/
def offer (t : Transaction) (s : State) : State := { s with inbox := [t] }

/-! ### WellFormed: an ill-formed term for its one check (30_encoding.md rule R73) -/

theorem test_wellFormed_refuses_width3 : (Instr.fWrdata 3).wellFormed = false := by decide
theorem test_wellFormed_refuses_width16 : (Instr.fRddata 16).wellFormed = false := by decide
theorem test_wellFormed_accepts_widths :
    ([1, 2, 4, 8].all fun w => (Instr.fWrdata w).wellFormed && (Instr.fRddata w).wellFormed) = true := by decide

/-! ### Decoding: a word of each command written out from 30_encoding.md rules R70, R71 and R78 -/

theorem test_decode_fBind : decode 0x0000002001000301 = .ok (.fBind 0x0100 32 3) := by rfl
theorem test_decode_fWrdata : decode 0x0000000000000402 = .ok (.fWrdata 4) := by rfl
theorem test_decode_fRddata : decode 0x0000000000000803 = .ok (.fRddata 8) := by rfl
theorem test_decode_fWrhdr_masks_id : decode 0x0000000000008A04 = .ok (.fWrhdr 10) := by rfl
theorem test_decode_fIsvalid : decode 0x05 = .ok .fIsvalid := by rfl
theorem test_decode_fIseog : decode 0x06 = .ok .fIseog := by rfl
theorem test_decode_fStuff : decode 0x07 = .ok .fStuff := by rfl
theorem test_decode_fDestuff : decode 0x08 = .ok .fDestuff := by rfl
theorem test_decode_fMsgsize : decode 0x09 = .ok .fMsgsize := by rfl
theorem test_decode_fProcsize : decode 0x0A = .ok .fProcsize := by rfl
theorem test_decode_gOpenw : decode 0x10 = .ok .gOpenw := by rfl
theorem test_decode_gOpenr : decode 0x0000000000230011 = .ok (.gOpenr 35) := by rfl
theorem test_decode_gCommit : decode 0x12 = .ok .gCommit := by rfl
theorem test_decode_gNext : decode 0x13 = .ok .gNext := by rfl
theorem test_decode_gTrailer : decode 0x14 = .ok .gTrailer := by rfl
theorem test_decode_gHdrvalid : decode 0x15 = .ok .gHdrvalid := by rfl
theorem test_decode_gCalcsize : decode 0x16 = .ok .gCalcsize := by rfl

/-- The illegal words of 95_test_vectors.md section 2.3. -/
theorem test_decode_refuses_illegal_words :
    (([0x00, 0x0B, 0xFF, 0x105, 0x302, 0x02, 0x1003, 0x0001002001000301, 0x0000000100230011, 0x0000000000230111] :
      List CommandWord).all fun w => (decode w).toOption == none) = true := by decide +kernel

theorem test_asm_fBind : (Instr.fBind 0x0100 32 3).asm = "F.BIND 256, 32, RW" := by decide +kernel

/-! ### The CRC generator and the serializers (95_test_vectors.md sections 2.1 and 2.2) -/

theorem test_crc8_check : crc (W := 8) 0x07 [0x31, 0x32, 0x33, 0x34, 0x35, 0x36, 0x37, 0x38, 0x39] 0 = 0xF4 := by
  decide +kernel
theorem test_crc14_init : crc (W := 14) 0x0805 [0x00] 0x3FFF = 0x246F := by decide +kernel
theorem test_serFH : serFH ⟨0x7E, 10, 27, 0x1234⟩ = [0x7E, 0x14, 0x06, 0xD2, 0x34] := by decide +kernel
theorem test_desFH : desFH [0x7E, 0x15, 0x55, 0xAA, 0x55] = ⟨0x7E, 10, 1366, 0x2A55⟩ := by decide +kernel
theorem test_serGH :
    serGH ⟨0xAA, 0, 0x01020304, 0x05060708, 3, 13, 0x9C⟩ =
      [0xAA, 0x00, 0x01, 0x02, 0x03, 0x04, 0x05, 0x06, 0x07, 0x08, 0x00, 0x6D, 0x9C] := by decide +kernel

/-! ### Frame commands (95_test_vectors.md section 2.4 and the rules' examples) -/

theorem test_fBind_loads_header :
    (nextOf (exec (.fBind 0x100 32 1) (load 0x100 frameBytes blank))).map (fun t => (t.status, t.fh)) =
      some (0, ⟨0x7E, 10, 5, 0x3248⟩) := by decide +kernel
theorem test_fBind_refuses_range : codes (exec (.fBind 65531 5 1) blank) = some (2, 0) := by decide +kernel
theorem test_fWrdata_big_endian :
    (nextOf (exec (.fWrdata 2) (({ blank with dataIn := 0x1122334455667788 } : State).setView ⟨1, 2, 0, 8, 0⟩))).map
      (fun t => (t.mem.readBytes 5 2, t.fv.cursor)) = some ([0x77, 0x88], 2) := by decide +kernel
theorem test_fWrdata_no_room : codes (exec (.fWrdata 2) (blank.setView ⟨1, 2, 0, 8, 2⟩)) = some (4, 0) := by
  decide +kernel
theorem test_fRddata_big_endian :
    (nextOf (exec (.fRddata 4) (frameState.setCursor 0))).map (fun t => (t.dataOut, t.fv.cursor)) =
      some (0x01020304, 4) := by decide +kernel
theorem test_fRddata_needs_read_mode : codes (exec (.fRddata 1) (blank.setView ⟨1, 2, 0, 8, 0⟩)) = some (3, 0) := by
  decide +kernel
theorem test_fWrhdr_finalizes :
    (nextOf (exec (.fWrhdr 10) (frameState.setFh FrameHeader.zero))).map (fun t => (t.fh, t.mem.readBytes 0x100 5)) =
      some (⟨0x7E, 10, 5, 0x3248⟩, [0x7E, 0x14, 0x01, 0x72, 0x48]) := by decide +kernel
theorem test_fWrhdr_unbound : codes (exec (.fWrhdr 1) blank) = some (5, 0) := by decide +kernel
theorem test_fIsvalid_valid : codes (exec .fIsvalid frameState) = some (0, 1) := by decide +kernel
theorem test_fIsvalid_corrupt : codes (exec .fIsvalid (load 0x105 [0x00] frameState)) = some (0, 0) := by
  decide +kernel
theorem test_fIseog_sentinel : codes (exec .fIseog (frameState.setFh ⟨0x7E, 127, 0, 0⟩)) = some (0, 1) := by
  decide +kernel
theorem test_fIseog_nonzero_crc : codes (exec .fIseog (frameState.setFh ⟨0x7E, 127, 0, 0x020A⟩)) = some (0, 0) := by
  decide +kernel
theorem test_fMsgsize : codes (exec .fMsgsize frameState) = some (0, 10) := by decide +kernel
theorem test_fMsgsize_too_long : codes (exec .fMsgsize (frameState.setFh ⟨0x7E, 3, 28, 0⟩)) = some (0, 0) := by
  decide +kernel
theorem test_fProcsize : codes (exec .fProcsize frameState) = some (0, 10) := by decide +kernel

/-! ### Stuffing (95_test_vectors.md section 2.5) -/

theorem test_fStuff_fits_exactly :
    (nextOf (exec .fStuff stuffState)).map (fun t => (t.result, t.mem.readBytes 5 6, t.fv.cursor)) =
      some (3, [0x7E, 0xFE, 0x7E, 0xFE, 0x7E, 0xFE], 6) := by decide +kernel
theorem test_fStuff_overflow : codes (exec .fStuff (stuffState.setView ⟨1, 3, 0, 10, 3⟩)) = some (6, 0xFFFFFFFF) := by
  decide +kernel
theorem test_stuffBytes_leftmost_first :
    stuffBytes [0xAA, 0xAA] 0xFF [0xAA, 0xAA, 0xAA] = ([0xAA, 0xAA, 0xFF, 0xAA], 1) := by decide +kernel
theorem test_fDestuff_keeps_tail :
    (nextOf (exec .fDestuff
      ((avoiding [0x7E, 0xFE, 0, 0, 0] (load 0x105 [0x11, 0x7E, 0xFE, 0x00, 0x00, 0xFF, 0x22] frameState)).setFh
        ⟨0x7E, 5, 7, 0x0104⟩))).map (fun t => (t.result, t.mem.readBytes 0x105 7)) =
      some (1, [0x11, 0x7E, 0xFE, 0x00, 0x00, 0x22, 0x22]) := by decide +kernel
theorem test_fDestuff_needs_valid :
    codes (exec .fDestuff (avoiding [0x7E, 0x01] (frameState.setFh FrameHeader.zero))) = some (8, 0xFFFFFFFF) := by
  decide +kernel

/-! ### Group commands (95_test_vectors.md section 2.6) -/

theorem test_gOpenw_binds_first_frame :
    (nextOf (exec .gOpenw frameState)).map (fun t => (t.fv, t.grp, t.mem)) =
      some (⟨1, 2, 13, 2052, 0⟩, ⟨2, 65535, 13, 0⟩, Memory.cleared) := by decide +kernel
theorem test_gOpenr_loads_headers :
    (nextOf (exec (.gOpenr 23) (load 0 groupBytes blank))).map (fun t => (t.gh, t.fh, t.fv)) =
      some (groupHeader, ⟨0x7E, 5, 0, 0x0AB1⟩, ⟨1, 1, 13, 10, 0⟩) := by decide +kernel
theorem test_gOpenr_refuses_17 : codes (exec (.gOpenr 17) blank) = some (2, 0) := by decide +kernel
theorem test_gCommit_advances :
    (nextOf (exec .gCommit writeState)).map (fun t => (t.grp, t.fv, t.fh)) =
      some (⟨2, 65535, 18, 1⟩, ⟨1, 2, 18, 2052, 0⟩, FrameHeader.zero) := by decide +kernel
theorem test_gCommit_needs_valid : codes (exec .gCommit (writeState.setFh FrameHeader.zero)) = some (8, 0) := by
  decide +kernel
theorem test_gNext_stops_at_sentinel :
    (nextOf (exec .gNext readState)).map (fun t => (t.status, t.result, t.grp.fc, t.fh)) =
      some (7, 0, 18, sentinelHeader) := by decide +kernel
theorem test_gNext_resynchronises :
    (nextOf (exec .gNext
      ((load 13 [0x7E, 0x00, 0x00, 0x7E, 0x0A, 0x00, 0x0A, 0xB1] readState).setFh ⟨0x7E, 0, 1, 0x3E0A⟩))).map
      (fun t => (t.status, t.grp.fc, t.fv.size)) = some (0, 16, 7) := by decide +kernel
theorem test_gTrailer_writes :
    (nextOf (exec .gTrailer ((writeState.setGroup ⟨2, 65535, 18, 1⟩).setView ⟨1, 2, 18, 2052, 0⟩))).map
      (fun t => (t.mem.readBytes 0 23, t.gh)) = some (groupBytes, groupHeader) := by decide +kernel
theorem test_gHdrvalid_valid : codes (exec .gHdrvalid readState) = some (0, 1) := by decide +kernel
theorem test_gHdrvalid_flipped : codes (exec .gHdrvalid (readState.setGh { groupHeader with hcrc := 0xDA })) = some (0, 0) := by
  decide +kernel
theorem test_gCalcsize_end_of_sentinel : codes (exec .gCalcsize readState) = some (0, 23) := by decide +kernel
theorem test_gCalcsize_sentinel_erased :
    codes (exec .gCalcsize (load 18 [0, 0] readState)) = some (0, 18) := by decide +kernel

/-! ### The host port -/

theorem test_withFetchWord_runs_first :
    step (State.reset.withFetchWord 64 0x0000002001000301) =
      exec (.fBind 0x0100 32 3) (State.reset.setCmd 0x0000002001000301) := by rfl
theorem test_illegal_command : codes (step (frameState.withFetchWord 64 0x105)) = some (1, 0) := by decide +kernel
theorem test_host_reads_result_unsigned :
    (nextOf (step (offer (.rd 0x02) { blank with result := minusOne }))).map (·.reply) =
      some (.reg 0xFFFFFFFF) := by decide +kernel
theorem test_host_masks_write :
    (nextOf (step (offer (.wr 0x1F 0x1234) blank))).map (fun t => t.avoid[15]) = some 0x34 := by decide +kernel
theorem test_host_memory_out_of_range :
    (nextOf (step (offer (.memRd 65534 2) (load 65534 [0x55] blank)))).map (·.reply) =
      some (.bytes [0, 0]) := by decide +kernel
theorem test_reset_keeps_memory :
    (nextOf (step (offer .reset frameState))).map (fun t => (t.fv.bound, t.mem == frameState.mem)) = some (0, true) := by
  decide +kernel

/-! ### A state that meets the hypotheses of each statement

witness_<Name> is for Obligations.<Name>; where a statement has several clauses, each clause has a conjunct, at a boundary of its
range. -/

/-- An offered transaction does not touch the invariant. -/
theorem inv_offer {s : State} (h : Inv s) (x : Transaction) : Inv (offer x s) := ⟨h.mem, h.view, h.group, h.status, h.params⟩

/-- An outcome whose codes are known is a next state with those codes. -/
theorem next_of_codes {o : Outcome} {c : Nat × Nat} (h : codes o = some c) :
    ∃ t, o = .next t ∧ t.status.toNat = c.1 ∧ t.result.toNat = c.2 := by
  match o, h with
  | .next t, h =>
    have : (t.status.toNat, t.result.toNat) = c := by simpa [codes, nextOf] using h
    exact ⟨t, rfl, by rw [← this], by rw [← this]⟩

/-- A word that decodes to an error decodes to no command. -/
theorem no_command {w : CommandWord} (h : (decode w).toOption = none) : ∀ i, decode w ≠ .ok i := by
  intro i hi
  rw [hi] at h
  exact absurd h (by simp [Except.toOption])

theorem inv_blank : Inv blank := ⟨by decide +kernel, by decide +kernel, by decide +kernel, by decide +kernel, by decide +kernel⟩
theorem inv_frameState : Inv frameState :=
  ⟨by decide +kernel, by decide +kernel, by decide +kernel, by decide +kernel, by decide +kernel⟩
theorem inv_stuffState : Inv stuffState :=
  ⟨by decide +kernel, by decide +kernel, by decide +kernel, by decide +kernel, by decide +kernel⟩
theorem inv_readState : Inv readState :=
  ⟨by decide +kernel, by decide +kernel, by decide +kernel, by decide +kernel, by decide +kernel⟩
theorem inv_writeState : Inv writeState :=
  ⟨by decide +kernel, by decide +kernel, by decide +kernel, by decide +kernel, by decide +kernel⟩

theorem valid_frameState : ValidView frameState := by unfold ValidView ValidAt; decide +kernel
theorem valid_readState : ValidView readState := by unfold ValidView ValidAt; decide +kernel
theorem valid_writeState : ValidView writeState := by unfold ValidView ValidAt; decide +kernel
theorem invalid_frameState : ¬ ValidView (frameState.setFh FrameHeader.zero) := by unfold ValidView ValidAt; decide +kernel

theorem witness_StepRunsTheDecodedCommand :
    ((blank.withFetchWord 64 0x12).inbox = [.wr 0x00#8 0x12#64] ∧ decode 0x12#64 = .ok .gCommit) ∧ blank.inbox = [] :=
  ⟨⟨rfl, rfl⟩, rfl⟩

theorem witness_DecodeOfEncodeIsTheCommand :
    (Instr.fWrdata 8).wellFormed = true ∧ (Instr.fWrhdr 127).wellFormed = true ∧
      (Instr.fBind 0xFFFF 0xFFFF 0xFF).wellFormed = true := by decide

theorem witness_EncodeOfDecodeIsTheWord : decode 0x8A04#64 = .ok (.fWrhdr 10) ∧ decode 0x802#64 = .ok (.fWrdata 8) :=
  ⟨rfl, rfl⟩

theorem witness_EveryWordExecutesOrIsIllegal :
    (∃ r ∈ opcodeMap, 0x802#64 &&& r.format.mask = r.mtch ∧
      (r.format = .w → (0x802#64 : CommandWord).extractLsb' 8 8 ∈ [1#8, 2#8, 4#8, 8#8])) ∧
    (¬ ∃ r ∈ opcodeMap, 0x1002#64 &&& r.format.mask = r.mtch ∧
      (r.format = .w → (0x1002#64 : CommandWord).extractLsb' 8 8 ∈ [1#8, 2#8, 4#8, 8#8])) ∧
    (∀ w, (offer (.wr 0x00#8 w) blank).inbox = [.wr 0x00#8 w]) :=
  ⟨by decide +kernel, by decide +kernel, fun _ => rfl⟩

theorem witness_IllegalCommandChangesOnlyStatusAndResult :
    (∀ i, decode 0x105#64 ≠ .ok i) ∧
    ((0x00#64 : CommandWord).extractLsb' 0 8).toNat = 0x00 ∧
    (0x0B ≤ ((0x0B#64 : CommandWord).extractLsb' 0 8).toNat ∧ ((0x0F#64 : CommandWord).extractLsb' 0 8).toNat ≤ 0x0F) ∧
    0x17 ≤ ((0x17#64 : CommandWord).extractLsb' 0 8).toNat :=
  ⟨no_command rfl, by decide, by decide, by decide⟩

theorem witness_HostReadFollowsTheRegisterMap :
    (∀ num, (offer (.rd num) blank).inbox = [.rd num]) ∧ (0x10#8).toNat = 0x10 + (0 : Fin 16).val ∧
      (0x1F#8).toNat = 0x10 + (15 : Fin 16).val ∧ (0x2F#8).toNat = 0x2F ∧ 0x3B ≤ (0x3B#8).toNat :=
  ⟨fun _ => rfl, by decide, by decide, by decide, by decide⟩

theorem witness_HostWriteIsMaskedOrIgnored :
    (∀ num v, (offer (.wr num v) blank).inbox = [.wr num v]) ∧ 0x01#8 ≠ 0x00#8 ∧ 0xFF#8 ≠ 0x00#8 :=
  ⟨fun _ _ => rfl, by decide, by decide⟩

theorem witness_HostMemoryTransactions :
    Inv (offer (.memWr 65534 [0x55]) blank) ∧ 65534 + [0x55#8].length ≤ memSize ∧
    Inv (offer (.memWr 65534 [0x55, 0x55]) blank) ∧ memSize < 65534 + [0x55#8, 0x55#8].length ∧
    Inv (offer (.memRd 65534 1) blank) ∧ (offer (.memRd 65534 1) blank).inbox = [.memRd 65534 1] ∧
    (offer (.memWr 65534 [0x55]) blank).inbox = [.memWr 65534 [0x55]] :=
  ⟨inv_offer inv_blank _, by decide, inv_offer inv_blank _, by decide, inv_offer inv_blank _, rfl, rfl⟩

theorem witness_ResetZeroesRegistersAndKeepsMemory : (offer .reset frameState).inbox = [.reset] := rfl

theorem witness_PowerOnIsTheResetState :
    (offer .reset State.reset).inbox = [.reset] ∧ (offer .reset State.reset).mem = State.reset.mem ∧
      (offer .reset State.reset).params = State.reset.params := ⟨rfl, rfl, rfl⟩

theorem witness_AfterResetFrameAndGroupCommandsFail :
    blank.fv.bound = 0#1 ∧ checksBound .fStuff = true ∧ blank.grp.mode = groupNone ∧ (groupModes .gNext).isSome = true ∧
      (offer .reset frameState).inbox = [.reset] := ⟨rfl, rfl, rfl, rfl, rfl⟩

theorem witness_GroupModeCheckComesFirst :
    readState.grp.mode ≠ 2#2 ∧ writeState.grp.mode ≠ 1#2 ∧ (blank.grp.mode ≠ 1#2 ∧ blank.grp.mode ≠ 2#2) ∧
    (∃ t, exec .gOpenw blank = .next t ∧ t.status.toNat = 0 ∧ t.result.toNat = 1) ∧
    (∃ t, exec (.gOpenr 17) blank = .next t ∧ t.status.toNat = 2 ∧ t.result.toNat = 0) ∧
    (writeState.grp.mode = 2#2 ∧ ∃ t, exec .gTrailer writeState = .next t ∧ t.status.toNat = 0 ∧ t.result.toNat = 1) ∧
    (readState.grp.mode = 1#2 ∧ ∃ t, exec .gNext readState = .next t ∧ t.status.toNat = 7 ∧ t.result.toNat = 0) ∧
    (∃ t, exec .gHdrvalid readState = .next t ∧ t.status.toNat = 0 ∧ t.result.toNat = 1) :=
  ⟨by decide, by decide, by decide, next_of_codes (c := (0, 1)) (by decide +kernel),
    next_of_codes (c := (2, 0)) (by decide +kernel), ⟨rfl, next_of_codes (c := (0, 1)) (by decide +kernel)⟩,
    ⟨rfl, next_of_codes (c := (7, 0)) (by decide +kernel)⟩, next_of_codes (c := (0, 1)) (by decide +kernel)⟩

/-- For StepKeepsInvariant, NoStepStops and ParametersNeverChange: a step of a state that meets the invariant. -/
theorem witness_StepKeepsInvariant :
    Inv (offer (.wr 0x00#8 0x13#64) readState) ∧
      ∃ t, step (offer (.wr 0x00#8 0x13#64) readState) = .next t ∧ t.status.toNat = 7 ∧ t.result.toNat = 0 :=
  ⟨inv_offer inv_readState _, next_of_codes (c := (7, 0)) (by decide +kernel)⟩

theorem witness_FrameStateMachine :
    ((nextOf (step (offer (.memRd 0 1) frameState))).map (·.fv.bound) = some 1#1 ∧ Transaction.memRd 0 1 ≠ .reset) ∧
    (blank.fv.bound = 0#1 ∧ (nextOf (exec .gOpenw blank)).map (·.fv.bound) = some 1#1) ∧
    (frameState.fv.bound = 1#1 ∧ checksBound .fStuff = true ∧ codes (exec .fStuff frameState) = some (6, 0xFFFFFFFF)) := by
  decide +kernel

/-- For CachedHeadersChangeOnlyByTheirCommands and CommandsWriteOnlyTheirRegisters: a command outside every list there, and a
host transaction. -/
theorem witness_CachedHeadersChangeOnlyByTheirCommands :
    (bindsView .fDestuff = false ∧ codes (exec .fDestuff frameState) = some (6, 0xFFFFFFFF)) ∧
    ((offer (.memWr 0x100 [0]) frameState).inbox = [.memWr 0x100 [0]] ∧ Transaction.memWr 0x100 [0] ≠ .reset ∧
      (nextOf (step (offer (.memWr 0x100 [0]) frameState))).isSome = true) := by decide +kernel

/-- For FailedCommandChangesOnlyStatusAndResult and CompletionCodesFollowTheTable: a failing command. -/
theorem witness_FailedCommandChangesOnlyStatusAndResult :
    ∃ t, exec (.fWrdata 8) (blank.setView ⟨1, 2, 0, 12, 0⟩) = .next t ∧ t.status.toNat = 4 ∧ t.result.toNat = 0 :=
  next_of_codes (c := (4, 0)) (by decide +kernel)

theorem witness_CommandsStoreOnlyInTheirRange :
    Inv stuffState ∧ checksBound .fStuff = true ∧
      (∃ t, exec .fStuff stuffState = .next t ∧ t.status.toNat = 0 ∧ t.result.toNat = 3) ∧
      Inv writeState ∧ (∃ t, exec .gTrailer writeState = .next t ∧ t.status.toNat = 0 ∧ t.result.toNat = 1) :=
  ⟨inv_stuffState, rfl, next_of_codes (c := (0, 3)) (by decide +kernel), inv_writeState,
    next_of_codes (c := (0, 1)) (by decide +kernel)⟩

/-- The other memory lists one byte outside the view: its first after the last byte of the view. -/
theorem witness_FrameCommandsReadOnlyTheView :
    Inv stuffState ∧ (stuffState.mem.writeByte 11 0x99).wf = true ∧ stuffState.fv.bound = 1#1 ∧
      checksBound .fStuff = true ∧
      (∀ x, x < 11 → (stuffState.mem.writeByte 11 0x99).readByte x = stuffState.mem.readByte x) ∧
      (∃ t, exec .fStuff stuffState = .next t ∧ t.status.toNat = 0 ∧ t.result.toNat = 3) :=
  ⟨inv_stuffState, by decide +kernel, rfl, rfl, by decide +kernel, next_of_codes (c := (0, 3)) (by decide +kernel)⟩

theorem witness_FBindBindsTheView :
    (3#8 ∈ [1#8, 2#8, 3#8] ∧ 5 ≤ (5#16).toNat ∧ (5#16).toNat ≤ 2052 ∧ (65530#16).toNat + (5#16).toNat ≤ 65535) ∧
    (2#8 ∈ [1#8, 2#8, 3#8] ∧ 5 ≤ (2052#16).toNat ∧ (2052#16).toNat ≤ 2052 ∧
      (63483#16).toNat + (2052#16).toNat ≤ 65535) := by decide

theorem witness_ConstructionErrors :
    4#8 ∉ [1#8, 2#8, 3#8] ∧ (4#16).toNat < 5 ∧ 2052 < (2053#16).toNat ∧ 65535 < (65531#16).toNat + (5#16).toNat ∧
      (17#16).toNat < blank.params.groupMinSize := by decide

/-- For FWrdataStoresBigEndian and FRddataLoadsBigEndian: the widest access that just fits. -/
theorem witness_FWrdataStoresBigEndian :
    Inv (frameState.setCursor 19) ∧ 8#8 ∈ [1#8, 2#8, 4#8, 8#8] ∧ (frameState.setCursor 19).fv.bound = 1#1 ∧
      (frameState.setCursor 19).fv.mode ∈ [2#2, 3#2] ∧ (frameState.setCursor 19).fv.mode ∈ [1#2, 3#2] ∧
      5 + (frameState.setCursor 19).fv.cursor.toNat + (8#8).toNat ≤ (frameState.setCursor 19).fv.size.toNat :=
  ⟨⟨by decide +kernel, by decide +kernel, by decide +kernel, by decide +kernel, by decide +kernel⟩,
    by decide, by decide, by decide, by decide, by decide⟩

theorem witness_PayloadAccessFailuresInOrder :
    blank.fv.bound = 0#1 ∧
    (readState.fv.bound = 1#1 ∧ readState.fv.mode.getLsbD 1 = false) ∧
    (writeState.fv.bound = 1#1 ∧ writeState.fv.mode.getLsbD 0 = false) ∧
    ((frameState.setCursor 20).fv.bound = 1#1 ∧ (frameState.setCursor 20).fv.mode.getLsbD 0 = true ∧
      (frameState.setCursor 20).fv.mode.getLsbD 1 = true ∧
      (frameState.setCursor 20).fv.size.toNat < 5 + (frameState.setCursor 20).fv.cursor.toNat + (8#8).toNat) ∧
    ((frameState.setCursor 2048).fv.bound = 1#1 ∧ 2047 < (frameState.setCursor 2048).fv.cursor.toNat) := by decide +kernel

/-- For FWrhdrFinalizesTheHeader, FIseogAnswersSentinel and FProcsizeAnswersCursor: no view, a bound view, and both headers. -/
theorem witness_FIseogAnswersSentinel :
    blank.fv.bound = 0#1 ∧ Inv frameState ∧ frameState.fv.bound = 1#1 ∧ ¬ EogHeader frameState.fh ∧ EogHeader (frameState.setFh sentinelHeader).fh :=
  ⟨rfl, inv_frameState, rfl, by unfold EogHeader; decide, by unfold EogHeader; decide⟩

/-- For FIsvalidAnswersValidity and FMsgsizeAnswersSize: no view, a valid frame, and one that is not. -/
theorem witness_FIsvalidAnswersValidity :
    blank.fv.bound = 0#1 ∧ Inv frameState ∧ frameState.fv.bound = 1#1 ∧ ValidView frameState ∧
      Inv (frameState.setFh FrameHeader.zero) ∧ ¬ ValidView (frameState.setFh FrameHeader.zero) :=
  ⟨rfl, inv_frameState, rfl, valid_frameState,
    ⟨by decide +kernel, by decide +kernel, by decide +kernel, by decide +kernel, by decide +kernel⟩, invalid_frameState⟩

/-- Three occurrences of a one-byte P, back to back: each is followed by its own escape. -/
theorem stuffed_stuffState :
    Stuffed stuffState.avoidHead stuffState.escapeByte
      (stuffState.mem.readBytes stuffState.payloadBase stuffState.fv.cursor.toNat)
      [0x7E, 0xFE, 0x7E, 0xFE, 0x7E, 0xFE] 3 := by
  have h1 : stuffState.avoidHead = [0x7E#8] := by decide +kernel
  have h2 : stuffState.escapeByte = 0xFE#8 := by decide +kernel
  have h3 : stuffState.mem.readBytes stuffState.payloadBase stuffState.fv.cursor.toNat = [0x7E#8, 0x7E#8, 0x7E#8] := by
    decide +kernel
  rw [h1, h2, h3]
  exact .hit [0x7E, 0x7E] _ _ (.hit [0x7E] _ _ (.hit [] _ _ .nil))

theorem witness_FStuffStuffsTheWrittenPayload :
    Inv stuffState ∧ stuffState.fv.bound = 1#1 ∧ 2 ≤ stuffState.avoidLen.toNat ∧ stuffState.avoidLen.toNat ≤ 16 ∧
      Stuffed stuffState.avoidHead stuffState.escapeByte
        (stuffState.mem.readBytes stuffState.payloadBase stuffState.fv.cursor.toNat)
        [0x7E, 0xFE, 0x7E, 0xFE, 0x7E, 0xFE] 3 ∧
      5 + stuffState.fv.cursor.toNat + 3 ≤ stuffState.fv.size.toNat :=
  ⟨inv_stuffState, rfl, by decide +kernel, by decide +kernel, stuffed_stuffState, by decide +kernel⟩

/-- frameState with the avoid sequence 03 FB, so that its payload 01 02 03 04 05 holds an escape of 03. -/
def destuffState : State := avoiding [0x03, 0xFB] frameState

theorem payload_destuffState (bs : List Byte) :
    (avoiding bs frameState).mem.readBytes (avoiding bs frameState).payloadBase (avoiding bs frameState).fh.len.toNat =
      [1#8, 2#8, 3#8, 4#8, 5#8] := by
  show frameState.mem.readBytes frameState.payloadBase frameState.fh.len.toNat = _
  decide +kernel

theorem witness_FDestuffRemovesTheEscapes :
    Inv destuffState ∧ destuffState.fv.bound = 1#1 ∧ 2 ≤ destuffState.avoidLen.toNat ∧ destuffState.avoidLen.toNat ≤ 16 ∧
      ValidView destuffState ∧
      Destuffed destuffState.avoidHead destuffState.escapeByte
        (destuffState.mem.readBytes destuffState.payloadBase destuffState.fh.len.toNat) [1, 2, 3, 5] 1 := by
  refine ⟨⟨by decide +kernel, by decide +kernel, by decide +kernel, by decide +kernel, by decide +kernel⟩, by decide +kernel,
    by decide +kernel, by decide +kernel, valid_frameState, ?_⟩
  have h1 : destuffState.avoidHead = [3#8] := by decide +kernel
  have h2 : destuffState.escapeByte = 4#8 := by decide +kernel
  rw [h1, h2, destuffState, payload_destuffState]
  exact .miss _ _ _ _ (by decide) (.miss _ _ _ _ (by decide) (.hit [5] _ _ (.miss _ _ _ _ (by decide) .nil)))

/-- The clauses on the payload: a stuffed form one byte too long, a frame that is not valid, and a P that another byte than the
escape follows. -/
theorem witness_StuffingFailuresInOrder :
    blank.fv.bound = 0#1 ∧
    (frameState.fv.bound = 1#1 ∧ (avoiding [0x7E] frameState).avoidLen.toNat < 2 ∧
      16 < ({ frameState with avoidLen := 17 } : State).avoidLen.toNat) ∧
    (Inv (stuffState.setView ⟨1, 3, 0, 10, 3⟩) ∧ 2 ≤ stuffState.avoidLen.toNat ∧ 10 < 5 + stuffState.fv.cursor.toNat + 3) ∧
    ¬ ValidView ((avoiding [0x7E, 0x01] frameState).setFh FrameHeader.zero) ∧
    (ValidView (avoiding [0x01, 0x00] frameState) ∧
      ¬ ∃ out r, Destuffed (avoiding [0x01, 0x00] frameState).avoidHead (avoiding [0x01, 0x00] frameState).escapeByte
        ((avoiding [0x01, 0x00] frameState).mem.readBytes (avoiding [0x01, 0x00] frameState).payloadBase
          (avoiding [0x01, 0x00] frameState).fh.len.toNat) out r) := by
  refine ⟨rfl, by decide +kernel,
    ⟨⟨by decide +kernel, by decide +kernel, by decide +kernel, by decide +kernel, by decide +kernel⟩, by decide +kernel⟩,
    invalid_frameState, valid_frameState, ?_⟩
  rintro ⟨out, r, h⟩
  have h1 : (avoiding [0x01, 0x00] frameState).avoidHead = [1#8] := by decide +kernel
  have h2 : (avoiding [0x01, 0x00] frameState).escapeByte = 0xFF#8 := by decide +kernel
  rw [h1, h2, payload_destuffState] at h
  generalize hs : [1#8, 2#8, 3#8, 4#8, 5#8] = src at h
  cases h with
  | nil => exact absurd hs (by decide)
  | hit rest => simp at hs
  | miss b rest _ _ hm => rw [← hs] at hm; exact hm (by decide)

theorem witness_StuffingScanIsTotalAndDeterministic :
    [0x7E#8] ≠ [] ∧ Stuffed [0x7E] 0xFE [0x7E, 0x41] [0x7E, 0xFE, 0x41] 1 ∧
      Destuffed [0x7E] 0xFE [0x7E, 0xFE, 0x41] [0x7E, 0x41] 1 ∧
      destuffBytes [0x7E] 0xFE [0x7E, 0xFE, 0x41] = some ([0x7E, 0x41], 1) :=
  ⟨by decide, .hit [0x41] _ _ (.miss _ _ _ _ (by decide) .nil), .hit [0x41] _ _ (.miss _ _ _ _ (by decide) .nil),
    by decide +kernel⟩

theorem witness_GOpenrOpensTheBytesInM : Inv blank ∧ blank.params.groupMinSize ≤ (18#16).toNat :=
  ⟨inv_blank, by decide⟩

/-- A group open for writing whose current frame, of no payload, is the one of writeState at another frame cursor. -/
def writeStateAt (fc : Nat) : State :=
  (((load fc [0x7E, 0x0A, 0x00, 0x0A, 0xB1] blank).setGroup ⟨2, 65535, BitVec.ofNat 16 fc, 1⟩).setView
    ⟨1, 2, BitVec.ofNat 16 fc, BitVec.ofNat 12 (min (65535 - fc) 2052), 0⟩).setFh ⟨0x7E, 5, 0, 0x0AB1⟩

/-- The last frame cursor with room for a next header. -/
theorem witness_GCommitAdvancesPastTheFrame :
    Inv (writeStateAt 65525) ∧ (writeStateAt 65525).grp.mode = 2#2 ∧ ValidView (writeStateAt 65525) ∧
      (writeStateAt 65525).grp.fc.toNat + 5 + (writeStateAt 65525).fh.len.toNat + 5 ≤ (writeStateAt 65525).grp.size.toNat :=
  ⟨⟨by decide +kernel, by decide +kernel, by decide +kernel, by decide +kernel, by decide +kernel⟩, rfl,
    by unfold ValidView ValidAt; decide +kernel, by decide +kernel⟩

/-- The first without. -/
theorem witness_GCommitFailuresInOrder :
    (writeState.grp.mode = 2#2 ∧ ¬ ValidView (writeState.setFh FrameHeader.zero)) ∧
    (Inv (writeStateAt 65526) ∧ (writeStateAt 65526).grp.mode = 2#2 ∧ ValidView (writeStateAt 65526) ∧
      (writeStateAt 65526).grp.size.toNat < (writeStateAt 65526).grp.fc.toNat + 5 + (writeStateAt 65526).fh.len.toNat + 5) :=
  ⟨⟨rfl, by unfold ValidView ValidAt; decide +kernel⟩,
    ⟨by decide +kernel, by decide +kernel, by decide +kernel, by decide +kernel, by decide +kernel⟩, rfl,
    by unfold ValidView ValidAt; decide +kernel, by decide +kernel⟩

/-- The scan that stops at the sentinel, right where it starts. -/
theorem witness_GNextFindsTheFirstStop :
    Inv readState ∧ readState.grp.mode = 1#2 ∧ ScanStart readState 18 ∧
      StopsAt readState.params readState.mem readState.grp.size.toNat 18 sentinelHeader ∧
      (∀ q h', 18 ≤ q → q < 18 → ¬ StopsAt readState.params readState.mem readState.grp.size.toNat q h') ∧
      EogHeader sentinelHeader :=
  ⟨inv_readState, rfl, .inl ⟨valid_readState, by decide +kernel⟩,
    ⟨by decide +kernel, by unfold HeaderAt; decide +kernel, .inl (by unfold EogHeader; decide)⟩,
    fun q _ h1 h2 => absurd h1 (by omega), by unfold EogHeader; decide⟩

/-- A read group whose current frame is not valid, with a valid frame two bytes past the scan's start. -/
def resyncState : State :=
  (load 13 [0x7E, 0x00, 0x00, 0x7E, 0x0A, 0x00, 0x0A, 0xB1] readState).setFh ⟨0x7E, 0, 1, 0x3E0A⟩

/-- The scan that steps over two bytes to a frame. -/
theorem witness_GNextFindsTheFirstStop_frame :
    Inv resyncState ∧ resyncState.grp.mode = 1#2 ∧ ScanStart resyncState 14 ∧
      StopsAt resyncState.params resyncState.mem resyncState.grp.size.toNat 16 ⟨0x7E, 5, 0, 0x0AB1⟩ ∧
      (∀ q h', 14 ≤ q → q < 16 → ¬ StopsAt resyncState.params resyncState.mem resyncState.grp.size.toNat q h') ∧
      ¬ EogHeader ⟨0x7E, 5, 0, 0x0AB1⟩ := by
  refine ⟨⟨by decide +kernel, by decide +kernel, by decide +kernel, by decide +kernel, by decide +kernel⟩, rfl,
    .inr ⟨by unfold ValidView ValidAt; decide +kernel, by decide +kernel⟩,
    ⟨by decide +kernel, by unfold HeaderAt; decide +kernel, .inr (by unfold ValidAt; decide +kernel)⟩, ?_,
    by unfold EogHeader; decide⟩
  rintro q h' h1 h2 ⟨-, hh, hs⟩
  have hm : h'.magic = 0x7E#8 := hs.elim (·.1) (·.1)
  have hq : q = 14 ∨ q = 15 := by omega
  have hb : resyncState.mem.readByte q = 0 := by rcases hq with rfl | rfl <;> decide +kernel
  have : h'.magic = resyncState.mem.readByte q := (List.cons.inj hh).1
  rw [hm, hb] at this
  exact absurd this (by decide)

/-- A read group that ends one byte before the end of the sentinel. -/
def endState : State := (readState.setGroup ⟨1, 22, 13, 0⟩).setView ⟨1, 1, 13, 9, 0⟩

theorem witness_GNextEndsAtTheBufferEnd :
    Inv endState ∧ endState.grp.mode = 1#2 ∧ ScanStart endState 18 ∧
      ∀ p h, 18 ≤ p → ¬ StopsAt endState.params endState.mem endState.grp.size.toNat p h := by
  refine ⟨⟨by decide +kernel, by decide +kernel, by decide +kernel, by decide +kernel, by decide +kernel⟩, rfl,
    .inl ⟨by unfold ValidView ValidAt; decide +kernel, by decide +kernel⟩, ?_⟩
  rintro p h hp ⟨h1, -⟩
  have : endState.grp.size.toNat = 22 := by decide +kernel
  omega

/-- For GTrailerWritesSentinelAndHeader and GTrailerMakesTheGroupHeaderValid. -/
theorem witness_GTrailerMakesTheGroupHeaderValid :
    Inv writeState ∧ writeState.grp.mode = 2#2 ∧
      (∃ t, exec .gTrailer writeState = .next t ∧ t.status.toNat = 0 ∧ t.result.toNat = 1) ∧
      writeState.params.groupMinSize ≤ (18#16).toNat :=
  ⟨inv_writeState, rfl, next_of_codes (c := (0, 1)) (by decide +kernel), by decide⟩

/-- For GHdrvalidAnswersValidity and GCalcsizeRecoversTheSize: no group, a valid group header, and one that is not. -/
theorem witness_GCalcsizeRecoversTheSize :
    blank.grp.mode ∉ [1#2, 2#2] ∧ Inv readState ∧ readState.grp.mode ∈ [1#2, 2#2] ∧ ValidGroupHeader readState.params readState.gh ∧
      ¬ ValidGroupHeader readState.params { groupHeader with hcrc := 0xDA } :=
  ⟨by decide, inv_readState, by decide, by unfold ValidGroupHeader; decide +kernel, by unfold ValidGroupHeader; decide +kernel⟩

theorem witness_FrameHeaderSerializersAreInverse : [0x7E#8, 0x15, 0x55, 0xAA, 0x55].length = 5 := by decide

theorem witness_GroupHeaderSerializersAreInverse : (groupBytes.take 13).length = 13 := by decide

theorem witness_MixedWidthAccessesSeeBigEndianBytes :
    Inv { frameState.setCursor 23 with dataIn := 0xBEEF } ∧ (frameState.setCursor 23).fv.mode = 3#2 ∧
      9 + (frameState.setCursor 23).fv.cursor.toNat ≤ (frameState.setCursor 23).fv.size.toNat ∧
      ∃ t, exec (.fWrdata 2#8) { frameState.setCursor 23 with dataIn := 0xBEEF } = .next t ∧ t.status.toNat = 0 ∧
        t.result.toNat = 1 :=
  ⟨⟨by decide +kernel, by decide +kernel, by decide +kernel, by decide +kernel, by decide +kernel⟩, by decide, by decide,
    next_of_codes (c := (0, 1)) (by decide +kernel)⟩

theorem witness_FWrhdrMakesTheFrameValid :
    Inv frameState ∧ frameState.fv.bound = 1#1 ∧
      ∃ t, exec (.fWrhdr 127) frameState = .next t ∧ t.status.toNat = 0 ∧ t.result.toNat = 1 :=
  ⟨inv_frameState, rfl, next_of_codes (c := (0, 1)) (by decide +kernel)⟩

/-- The values of one F.WRDATA of each width, in a view of 20 bytes that they fill exactly. -/
def fourValues : List (BitVec 8 × BitVec 64) := [(1, 0x1AA), (2, 0xBEEF), (4, 0x01020304), (8, 0x1122334455667788)]

theorem witness_WrittenValuesReadBack :
    Inv (blank.setView ⟨1, 2, 0, 20, 0⟩) ∧ (blank.setView ⟨1, 2, 0, 20, 0⟩).fv.cursor = 0#12 ∧
      (∀ x ∈ fourValues, x.1 ∈ [1#8, 2#8, 4#8, 8#8]) ∧
      (((writeValues fourValues (blank.setView ⟨1, 2, 0, 20, 0⟩)).bind fun t => nextOf (exec (.fWrhdr 9) t)).bind fun u =>
        codes (exec (.fBind u.fv.base (u.fv.size.setWidth 16) 1) u)) = some (0, 1) :=
  ⟨⟨by decide +kernel, by decide +kernel, by decide +kernel, by decide +kernel, by decide +kernel⟩, rfl,
    by simp [fourValues], by decide +kernel⟩

theorem witness_SingleBitFlipsAreDetected :
    Inv frameState ∧ frameState.fv.bound = 1#1 ∧ frameState.params.frameCrcPoly ≠ 0#14 ∧ ValidView frameState ∧
      (frameState.payloadBase ≤ 0x109 ∧ 0x109 < frameState.payloadBase + frameState.fh.len.toNat) :=
  ⟨inv_frameState, rfl, by decide, valid_frameState, by decide +kernel⟩

theorem witness_HeaderBytesInMDoNotChangeTheAnswer :
    Inv (offer (.memWr 0x104 [0]) frameState) ∧ frameState.fv.bound = 1#1 ∧
      (offer (.memWr 0x104 [0]) frameState).inbox = [.memWr 0x104 [0]] ∧
      (frameState.fv.base.toNat ≤ 0x104 ∧ 0x104 + [0x00#8].length ≤ frameState.fv.base.toNat + 5) ∧
      ∃ t, step (offer (.memWr 0x104 [0]) frameState) = .next t :=
  ⟨inv_offer inv_frameState _, rfl, rfl, by decide, (next_of_codes (c := (0, 0)) (by decide +kernel)).imp fun _ h => h.1⟩

theorem witness_DestuffUndoesStuff :
    Inv stuffState ∧ stuffState.fv.bound = 1#1 ∧
      ((nextOf (exec .fStuff stuffState)).bind fun t => codes (exec (.fWrhdr 1) t)) = some (0, 1) :=
  ⟨inv_stuffState, rfl, by decide +kernel⟩

theorem witness_StuffedPayloadHoldsNoSentinel :
    Inv (avoiding [0x7E, 0xFE, 0, 0, 0] frameState) ∧ (avoiding [0x7E, 0xFE, 0, 0, 0] frameState).avoidLen = 5#8 ∧
      (avoiding [0x7E, 0xFE, 0, 0, 0] frameState).avoid.toList.take 5 = [0x7E#8, 0xFE#8, 0x00#8, 0x00#8, 0x00#8] ∧
      codes (exec .fStuff (avoiding [0x7E, 0xFE, 0, 0, 0] frameState)) = some (0, 0) :=
  ⟨⟨by decide +kernel, by decide +kernel, by decide +kernel, by decide +kernel, by decide +kernel⟩, by decide +kernel⟩

theorem witness_GCommitExtendsTheFrameChain :
    Inv writeState ∧ FrameChain writeState.params writeState.mem 13 writeState.grp.fc.toNat 0 ∧
      HeaderAt writeState.mem writeState.grp.fc.toNat writeState.fh ∧ ¬ EogHeader writeState.fh ∧
      ∃ t, exec .gCommit writeState = .next t ∧ t.status.toNat = 0 ∧ t.result.toNat = 1 :=
  ⟨inv_writeState, .nil 13, by unfold HeaderAt; decide +kernel, by unfold EogHeader; decide,
    next_of_codes (c := (0, 1)) (by decide +kernel)⟩

/-- writeState after its frame is committed. -/
def committedState : State :=
  ((writeState.setGroup ⟨2, 65535, 18, 1⟩).setView ⟨1, 2, 18, 2052, 0⟩).setFh FrameHeader.zero

theorem witness_GroupAccounting :
    Inv committedState ∧ committedState.grp.frames.toNat = 1 ∧
      FrameChain committedState.params committedState.mem 13 committedState.grp.fc.toNat 1 ∧
      ∃ t, exec .gTrailer committedState = .next t ∧ t.status.toNat = 0 ∧ t.result.toNat = 1 :=
  ⟨⟨by decide +kernel, by decide +kernel, by decide +kernel, by decide +kernel, by decide +kernel⟩, by decide +kernel,
    .cons 13 _ 0 ⟨0x7E, 5, 0, 0x0AB1⟩ (by unfold HeaderAt; decide +kernel) (by unfold ValidAt; decide +kernel)
      (by unfold EogHeader; decide) (.nil 18),
    next_of_codes (c := (0, 1)) (by decide +kernel)⟩

end Sys2Proof.Tests
end

section
/-! SUPPORT. What a command can do, said once: `Ends s i t` lists every way command i can end from s with the guards that held
there, and `exec_ends` shows that exec ends in no other way. -/

namespace Sys2Proof.Machine

variable {s t : State} {i : Instr}

/-! ### The guards, as arithmetic -/

theorem bindArgsOk_iff {base size mode : Nat} :
    bindArgsOk base size mode = true ↔
      (mode = 1 ∨ mode = 2 ∨ mode = 3) ∧ 5 ≤ size ∧ size ≤ 2052 ∧ base + size ≤ 65535 := by
  simp [bindArgsOk, and_assoc, or_assoc]

theorem hasRoom_iff {w : Nat} : s.hasRoom w = true ↔ 5 + s.fv.cursor.toNat + w ≤ s.fv.size.toNat := by
  simp [State.hasRoom]

/-- F.STUFF's output for the written payload, with the number of escape bytes in it (42_stuffing.md rule R162). -/
def State.stuffedPayload (s : State) : List Byte × Nat :=
  stuffBytes s.avoidHead s.escapeByte (s.mem.readBytes s.payloadBase s.fv.cursor.toNat)

/-! ### The ways a command ends -/

/-- Command i ends from s in t. -/
inductive Ends (s : State) : Instr → State → Prop where
  /-- A query, a failure, or a scan that met the end of the buffer: STATUS and RESULT, by the table of R220. -/
  | unchanged {i : Instr} {st : Status} {res : BitVec 32} (raised : raisedBy st i = true)
      (result : st ≠ .ok → res = failResult st i) : Ends s i (s.finished st res)
  | fBind {base size : BitVec 16} {mode : BitVec 8}
      (args : bindArgsOk base.toNat size.toNat mode.toNat = true) :
      Ends s (.fBind base size mode)
        ((bindView base.toNat size.toNat (mode.setWidth 2) (s.setGroup { s.grp with mode := groupNone })).finished .ok 1#32)
  | fWrdata {width : BitVec 8} (bound : s.fv.bound = 1#1) (write : s.canWrite = true)
      (room : s.hasRoom width.toNat = true) :
      Ends s (.fWrdata width)
        (((s.setMem (s.mem.writeBytes s.cursorAddr (beBytes width.toNat s.dataIn.toNat))).setCursor
          (s.fv.cursor.toNat + width.toNat)).finished .ok 1#32)
  | fRddata {width : BitVec 8} (bound : s.fv.bound = 1#1) (read : s.canRead = true)
      (room : s.hasRoom width.toNat = true) :
      Ends s (.fRddata width)
        (((s.setDataOut (BitVec.ofNat 64 (beNat (s.mem.readBytes s.cursorAddr width.toNat)))).setCursor
          (s.fv.cursor.toNat + width.toNat)).finished .ok 1#32)
  | fWrhdr {id : BitVec 7} (bound : s.fv.bound = 1#1) (room : s.fv.cursor.toNat ≤ maxPayload) :
      Ends s (.fWrhdr id)
        (((s.setFh (finalHeader id s)).setMem
          (s.mem.writeBytes s.fv.base.toNat (serFH (finalHeader id s)))).finished .ok 1#32)
  | fStuff (bound : s.fv.bound = 1#1) (avoid : s.avoidOk = true)
      (room : fhSize + (s.fv.cursor.toNat + s.stuffedPayload.2) ≤ s.fv.size.toNat) :
      Ends s .fStuff
        (((s.setMem (s.mem.writeBytes s.payloadBase s.stuffedPayload.1)).setCursor
          (s.fv.cursor.toNat + s.stuffedPayload.2)).finished .ok (natResult s.stuffedPayload.2))
  | fDestuff {out : List Byte × Nat} (bound : s.fv.bound = 1#1) (avoid : s.avoidOk = true)
      (valid : s.viewValid = true)
      (destuffed : destuffBytes s.avoidHead s.escapeByte (s.mem.readBytes s.payloadBase s.fh.len.toNat) = some out) :
      Ends s .fDestuff
        ((s.setMem (s.mem.writeBytes s.payloadBase out.1)).finished .ok (natResult out.2))
  | gOpenw :
      Ends s .gOpenw
        ((bindCurrent ghSize modeWrite
          (((s.setMem Memory.cleared).setGroup
            { mode := groupWrite, size := BitVec.ofNat 16 groupMaxSize, fc := BitVec.ofNat 16 ghSize, frames := 0 }).setGh
            GroupHeader.zero)).finished .ok 1#32)
  | gOpenr {size : BitVec 16} (minSize : s.params.groupMinSize ≤ size.toNat) :
      Ends s (.gOpenr size)
        ((bindCurrent ghSize modeRead
          ((s.setGroup
            { mode := groupRead, size := size, fc := BitVec.ofNat 16 ghSize, frames := 0 }).setGh
            (desGH (s.mem.readBytes 0 ghSize)))).finished .ok 1#32)
  | gCommit (group : s.grp.mode = groupWrite) (valid : s.viewValid = true)
      (room : s.grp.fc.toNat + fhSize + s.fh.len.toNat + fhSize ≤ s.grp.size.toNat) :
      Ends s .gCommit
        ((bindCurrent (s.grp.fc.toNat + fhSize + s.fh.len.toNat) modeWrite
          (s.setGroup { s.grp with frames := s.grp.frames + 1 })).finished .ok 1#32)
  | gNextSentinel {p : Nat} (group : s.grp.mode = groupRead) (stop : nextStop s s.viewValid = .sentinel p) :
      Ends s .gNext ((bindCurrent p modeRead s).finished .noFrame 0#32)
  | gNextFrame {p : Nat} (group : s.grp.mode = groupRead) (stop : nextStop s s.viewValid = .frame p) :
      Ends s .gNext ((bindCurrent p modeRead s).finished .ok 1#32)
  | gTrailer (group : s.grp.mode = groupWrite) :
      Ends s .gTrailer
        (((s.setGh (trailerHeader s)).setMem
          ((s.mem.writeBytes s.grp.fc.toNat (serFH sentinelHeader)).writeBytes 0 (serGH (trailerHeader s)))).finished
            .ok 1#32)

namespace Ends

/-- A command that fails by a code its row raises, with the row's RESULT. -/
theorem of_fail {st : Status} (h : fail st s = .next t) (raised : raisedBy st i = true)
    (result : failResult st i = 0#32) : Ends s i t := by
  rw [fail_next.mp h]
  exact .unchanged raised fun _ => result.symm

/-- A command that ends by a code its row raises, with the row's RESULT where the code is not OK. -/
theorem of_finish {st : Status} {res : BitVec 32} (h : finish st res s = .next t) (raised : raisedBy st i = true)
    (result : st ≠ .ok → res = failResult st i) : Ends s i t := by
  rw [finish_next.mp h]
  exact .unchanged raised result

/-- A query that ends OK. -/
theorem of_answer {res : BitVec 32} (h : finish .ok res s = .next t) : Ends s i t :=
  of_finish h rfl fun e => absurd rfl e

/-- The unbound check taken off a frame command. -/
theorem of_whenBound {k : Outcome} (checks : checksBound i = true) (h : whenBound s k = .next t)
    (body : s.fv.bound = 1#1 → k = .next t → Ends s i t) : Ends s i t := by
  obtain ⟨-, rfl⟩ | ⟨bound, hk⟩ := whenBound_next.mp h
  · exact .unchanged checks fun _ => rfl
  · exact body bound hk

/-- The group-mode check taken off a group command. -/
theorem of_whenGroup {modes : List (BitVec 2)} {k : Outcome} (checks : raisedBy .errCapability i = true)
    (h : whenGroup modes s k = .next t) (body : s.grp.mode ∈ modes → k = .next t → Ends s i t) : Ends s i t := by
  obtain ⟨-, rfl⟩ | ⟨group, hk⟩ := whenGroup_next.mp h
  · exact .unchanged checks fun _ => rfl
  · exact body group hk

end Ends

/-! ### Each command ends in one of these ways -/

theorem execFBind_ends {base size : BitVec 16} {mode : BitVec 8} (h : execFBind base size mode s = .next t) :
    Ends s (.fBind base size mode) t := by
  unfold execFBind at h
  split at h
  · rename_i args
    rw [finish_next.mp h]
    exact .fBind args
  · exact .of_fail h rfl rfl

theorem execFWrdata_ends {width : BitVec 8} (h : execFWrdata width s = .next t) : Ends s (.fWrdata width) t :=
  .of_whenBound rfl h fun bound h => by
    split at h
    · exact .of_fail h rfl rfl
    · rename_i write
      split at h
      · exact .of_fail h rfl rfl
      · rename_i room
        rw [finish_next.mp (access_next.mp h).2]
        exact .fWrdata bound (by simpa using write) (by simpa using room)

theorem execFRddata_ends {width : BitVec 8} (h : execFRddata width s = .next t) : Ends s (.fRddata width) t :=
  .of_whenBound rfl h fun bound h => by
    split at h
    · exact .of_fail h rfl rfl
    · rename_i read
      split at h
      · exact .of_fail h rfl rfl
      · rename_i room
        rw [finish_next.mp (access_next.mp h).2]
        exact .fRddata bound (by simpa using read) (by simpa using room)

theorem execFWrhdr_ends {id : BitVec 7} (h : execFWrhdr id s = .next t) : Ends s (.fWrhdr id) t :=
  .of_whenBound rfl h fun bound h => by
    split at h
    · exact .of_fail h rfl rfl
    · rename_i room
      rw [finish_next.mp (access_next.mp h).2]
      exact .fWrhdr bound (by omega)

theorem execFIsvalid_ends (h : execFIsvalid s = .next t) : Ends s .fIsvalid t :=
  .of_whenBound rfl h fun _ h => .of_answer (withViewValid_next.mp h).1

theorem execFIseog_ends (h : execFIseog s = .next t) : Ends s .fIseog t :=
  .of_whenBound rfl h fun _ h => .of_answer h

theorem execFMsgsize_ends (h : execFMsgsize s = .next t) : Ends s .fMsgsize t :=
  .of_whenBound rfl h fun _ h => .of_answer (withViewValid_next.mp h).1

theorem execFProcsize_ends (h : execFProcsize s = .next t) : Ends s .fProcsize t :=
  .of_whenBound rfl h fun _ h => .of_answer h

theorem execFStuff_ends (h : execFStuff s = .next t) : Ends s .fStuff t :=
  .of_whenBound rfl h fun bound h => by
    split at h
    · exact .of_finish h rfl fun _ => rfl
    · rename_i avoid
      replace h := (access_next.mp h).2
      dsimp only at h
      split at h
      · exact .of_finish h rfl fun _ => rfl
      · rename_i room
        rw [finish_next.mp (access_next.mp h).2]
        exact .fStuff bound (by simpa using avoid) (Nat.le_of_not_lt room)

theorem execFDestuff_ends (h : execFDestuff s = .next t) : Ends s .fDestuff t :=
  .of_whenBound rfl h fun bound h => by
    split at h
    · exact .of_finish h rfl fun _ => rfl
    · rename_i avoid
      replace h := (withViewValid_next.mp h).1
      split at h
      · exact .of_finish h rfl fun _ => rfl
      · rename_i valid
        split at h
        · exact .of_finish h rfl fun _ => rfl
        · rename_i out destuffed
          rw [finish_next.mp h]
          exact .fDestuff bound (by simpa using avoid) (by simpa using valid) destuffed

theorem execGOpenw_ends (h : execGOpenw s = .next t) : Ends s .gOpenw t := by
  rw [finish_next.mp h]
  exact .gOpenw

theorem execGOpenr_ends {size : BitVec 16} (h : execGOpenr size s = .next t) : Ends s (.gOpenr size) t := by
  unfold execGOpenr at h
  split at h
  · exact .of_fail h rfl rfl
  · rename_i sizes
    rw [finish_next.mp h]
    exact .gOpenr (by omega)

theorem execGCommit_ends (h : execGCommit s = .next t) : Ends s .gCommit t :=
  .of_whenGroup rfl h fun group h => by
    replace h := (withViewValid_next.mp h).1
    split at h
    · exact .of_fail h rfl rfl
    · rename_i valid
      dsimp only at h
      split at h
      · exact .of_fail h rfl rfl
      · rename_i room
        rw [finish_next.mp h]
        exact .gCommit (List.mem_singleton.mp group) (by simpa using valid) (Nat.le_of_not_lt room)

theorem execGNext_ends (h : execGNext s = .next t) : Ends s .gNext t :=
  .of_whenGroup rfl h fun group h => by
    replace h := (withViewValid_next.mp h).1
    have read := List.mem_singleton.mp group
    split at h
    case h_1 p stop =>
      rw [finish_next.mp h]
      exact .gNextSentinel read stop
    case h_2 p stop =>
      rw [finish_next.mp h]
      exact .gNextFrame read stop
    case h_3 => exact .of_finish h rfl fun _ => rfl

theorem execGTrailer_ends (h : execGTrailer s = .next t) : Ends s .gTrailer t :=
  .of_whenGroup rfl h fun group h => by
    rw [finish_next.mp (access_next.mp h).2]
    exact .gTrailer (List.mem_singleton.mp group)

theorem execGHdrvalid_ends (h : execGHdrvalid s = .next t) : Ends s .gHdrvalid t :=
  .of_whenGroup rfl h fun _ h => .of_answer h

theorem execGCalcsize_ends (h : execGCalcsize s = .next t) : Ends s .gCalcsize t :=
  .of_whenGroup rfl h fun _ h => .of_answer h

/-- Every command that ends, ends in one of the listed ways. -/
theorem exec_ends (h : exec i s = .next t) : Ends s i t := by
  cases i with
  | fBind base size mode => exact execFBind_ends h
  | fWrdata width => exact execFWrdata_ends h
  | fRddata width => exact execFRddata_ends h
  | fWrhdr id => exact execFWrhdr_ends h
  | fIsvalid => exact execFIsvalid_ends h
  | fIseog => exact execFIseog_ends h
  | fStuff => exact execFStuff_ends h
  | fDestuff => exact execFDestuff_ends h
  | fMsgsize => exact execFMsgsize_ends h
  | fProcsize => exact execFProcsize_ends h
  | gOpenw => exact execGOpenw_ends h
  | gOpenr size => exact execGOpenr_ends h
  | gCommit => exact execGCommit_ends h
  | gNext => exact execGNext_ends h
  | gTrailer => exact execGTrailer_ends h
  | gHdrvalid => exact execGHdrvalid_ends h
  | gCalcsize => exact execGCalcsize_ends h

end Sys2Proof.Machine
end

section
/-! PROOFS. The host port: what a step accepts, the register map as a numbering of the registers (10_state.md rule R23), and the
five transactions (rule R44). -/

namespace Sys2Proof.Machine

variable {s t : State} {num : RegNum} {v : BitVec 64}

/-! ### One step -/

theorem step_of_idle (h : s.inbox = []) : step s = .next s := by
  simp [step, stepPort, h]

theorem step_of_inbox {x : Transaction} {rest : List Transaction} (h : s.inbox = x :: rest) :
    step s = hostPort x (s.accept rest) := by
  simp [step, stepPort, h]

/-- A step is idle, or it is the first transaction offered. -/
theorem step_next (h : step s = .next t) :
    (s.inbox = [] ∧ t = s) ∨ ∃ x rest, s.inbox = x :: rest ∧ hostPort x (s.accept rest) = .next t := by
  cases offered : s.inbox with
  | nil =>
    rw [step_of_idle offered] at h
    cases h
    exact .inl ⟨rfl, rfl⟩
  | cons x rest => exact .inr ⟨x, rest, rfl, step_of_inbox offered ▸ h⟩

/-! ### The register map -/

/-- A register's number (10_state.md rule R23). -/
def Reg.number : Reg → Nat
  | .cmd => 0x00
  | .status => 0x01
  | .result => 0x02
  | .dataIn => 0x03
  | .dataOut => 0x04
  | .avoidLen => 0x05
  | .timeSec => 0x06
  | .timeNsec => 0x07
  | .avoid k => 0x10 + k.val
  | .fvBound => 0x20
  | .fvMode => 0x21
  | .fvBase => 0x22
  | .fvSize => 0x23
  | .fvCursor => 0x24
  | .fhMagic => 0x25
  | .fhId => 0x26
  | .fhLen => 0x27
  | .fhCrc => 0x28
  | .gMode => 0x30
  | .gSize => 0x31
  | .gFc => 0x32
  | .gFrames => 0x33
  | .ghMagic => 0x34
  | .ghVers => 0x35
  | .ghTsSec => 0x36
  | .ghTsNsec => 0x37
  | .ghNumFrames => 0x38
  | .ghHeaderLen => 0x39
  | .ghHcrc => 0x3A

theorem regOf_number (r : Reg) : regOf (BitVec.ofNat 8 r.number) = some r := by
  cases r with
  | avoid k => revert k; decide
  | _ => rfl

theorem number_of_regOf {r : Reg} (h : regOf num = some r) : num.toNat = r.number := by
  unfold regOf at h
  split at h
  · cases h
    simp only [Reg.number]
    omega
  · split at h <;> cases h <;> assumption

/-- The word of a register's number addresses the register, and no other word does. -/
theorem eq_number_iff (r : Reg) : num = BitVec.ofNat 8 r.number ↔ regOf num = some r := by
  constructor
  · rintro rfl
    exact regOf_number r
  · intro h
    rw [← number_of_regOf h]
    simp

/-- A number addresses a register exactly when it is the register's. -/
theorem regOf_eq_some {r : Reg} : regOf num = some r ↔ num.toNat = r.number := by
  refine ⟨number_of_regOf, fun h => (eq_number_iff r).mp ?_⟩
  rw [← h]
  simp

/-- The registers' numbers end at 0x3A and leave two gaps. -/
theorem Reg.number_mem (r : Reg) :
    r.number ≤ 0x07 ∨ (0x10 ≤ r.number ∧ r.number ≤ 0x28) ∨ (0x30 ≤ r.number ∧ r.number ≤ 0x3A) := by
  cases r with
  | avoid k => simp only [Reg.number]; omega
  | _ => decide

theorem regOf_eq_none
    (h : (0x07 < num.toNat ∧ num.toNat < 0x10) ∨ (0x28 < num.toNat ∧ num.toNat < 0x30) ∨ 0x3A < num.toNat) :
    regOf num = none := by
  cases found : regOf num with
  | none => rfl
  | some r =>
    have := number_of_regOf found
    have := r.number_mem
    omega

/-! ### Register transactions -/

/-- What the host reads of a register, as a number: nothing of CMD. -/
def regNat (s : State) : Reg → Nat
  | .cmd => 0
  | .status => s.status.toNat
  | .result => s.result.toNat
  | .dataIn => s.dataIn.toNat
  | .dataOut => s.dataOut.toNat
  | .avoidLen => s.avoidLen.toNat
  | .timeSec => s.timeSec.toNat
  | .timeNsec => s.timeNsec.toNat
  | .avoid k => s.avoid[k].toNat
  | .fvBound => s.fv.bound.toNat
  | .fvMode => s.fv.mode.toNat
  | .fvBase => s.fv.base.toNat
  | .fvSize => s.fv.size.toNat
  | .fvCursor => s.fv.cursor.toNat
  | .fhMagic => s.fh.magic.toNat
  | .fhId => s.fh.id.toNat
  | .fhLen => s.fh.len.toNat
  | .fhCrc => s.fh.crc.toNat
  | .gMode => s.grp.mode.toNat
  | .gSize => s.grp.size.toNat
  | .gFc => s.grp.fc.toNat
  | .gFrames => s.grp.frames.toNat
  | .ghMagic => s.gh.magic.toNat
  | .ghVers => s.gh.vers.toNat
  | .ghTsSec => s.gh.tsSec.toNat
  | .ghTsNsec => s.gh.tsNsec.toNat
  | .ghNumFrames => s.gh.numFrames.toNat
  | .ghHeaderLen => s.gh.headerLen.toNat
  | .ghHcrc => s.gh.hcrc.toNat

/-- Zero-extension to the port's 64 bits loses nothing of a register (log entry 4). -/
theorem getReg_toNat {r : Reg} (h : r.readable = true) : (getReg s r).toNat = regNat s r := by
  cases r with
  | cmd => cases h
  | dataIn | dataOut => rfl
  | _ => exact BitVec.toNat_setWidth_of_le (by decide)

theorem readReg_number (s : State) {r : Reg} (h : num.toNat = r.number) : (readReg num s).toNat = regNat s r := by
  simp only [readReg, regOf_eq_some.mpr h]
  split
  · exact getReg_toNat ‹_›
  · cases r with
    | cmd => rfl
    | _ => exact absurd rfl ‹_›

theorem readReg_of_none (s : State) (h : regOf num = none) : readReg num s = 0 := by
  simp only [readReg, h]

/-- A host write changes the five kinds of registers it may write, at most. -/
theorem writeReg_frame (num : RegNum) (v : BitVec 64) (s : State) :
    writeReg num v s =
      { s with
        dataIn := (writeReg num v s).dataIn
        avoidLen := (writeReg num v s).avoidLen
        timeSec := (writeReg num v s).timeSec
        timeNsec := (writeReg num v s).timeNsec
        avoid := (writeReg num v s).avoid } := by
  unfold writeReg
  split <;> rfl

theorem writeReg_dataIn :
    (writeReg num v s).dataIn = if regOf num = some .dataIn then v else s.dataIn := by
  unfold writeReg
  split <;> simp_all

theorem writeReg_avoidLen :
    (writeReg num v s).avoidLen = if regOf num = some .avoidLen then v.setWidth 8 else s.avoidLen := by
  unfold writeReg
  split <;> simp_all

theorem writeReg_timeSec :
    (writeReg num v s).timeSec = if regOf num = some .timeSec then v.setWidth 32 else s.timeSec := by
  unfold writeReg
  split <;> simp_all

theorem writeReg_timeNsec :
    (writeReg num v s).timeNsec = if regOf num = some .timeNsec then v.setWidth 32 else s.timeNsec := by
  unfold writeReg
  split <;> simp_all

theorem writeReg_avoid (k : Fin 16) :
    (writeReg num v s).avoid[k] = if regOf num = some (.avoid k) then v.setWidth 8 else s.avoid[k] := by
  unfold writeReg
  split
  case h_5 j found => simp [found, Vector.getElem_set, Fin.ext_iff]
  case h_6 other => exact (if_neg (other k)).symm
  all_goals simp_all

theorem hostPort_wr_cmd (w : CommandWord) (s : State) : hostPort (.wr 0x00#8 w) s = issue w (s.setCmd w) := rfl

theorem hostPort_wr_data (h : num ≠ 0x00#8) : hostPort (.wr num v) s = .next (writeReg num v s) :=
  if_neg fun cmd => h ((eq_number_iff .cmd).mpr cmd)

theorem issue_of_decode {w : CommandWord} {i : Instr} (h : decode w = .ok i) (s : State) : issue w s = exec i s := by
  simp only [issue, h]

theorem issue_of_error {w : CommandWord} {e : DecodeError} (h : decode w = .error e) (s : State) :
    issue w s = fail .errIllegal s := by
  simp only [issue, h]

/-! ### Memory transactions -/

theorem hostMemWrite_frame (a : Nat) (bs : List Byte) (s : State) :
    hostMemWrite a bs s = { s with mem := (hostMemWrite a bs s).mem } := by
  unfold hostMemWrite
  split <;> rfl

theorem hostMemWrite_of_le {a : Nat} {bs : List Byte} (h : a + bs.length ≤ memSize) :
    hostMemWrite a bs s = s.setMem (s.mem.writeBytes a bs) := if_pos h

theorem hostMemWrite_of_lt {a : Nat} {bs : List Byte} (h : memSize < a + bs.length) : hostMemWrite a bs s = s :=
  if_neg (Nat.not_le_of_lt h)

theorem readByte_hostMemWrite_outside (wf : s.mem.wf = true) {a : Nat} {bs : List Byte} {x : Nat}
    (h : memSize < a + bs.length ∨ x < a ∨ a + bs.length ≤ x) :
    (hostMemWrite a bs s).mem.readByte x = s.mem.readByte x := by
  by_cases inside : a + bs.length ≤ memSize
  · rw [hostMemWrite_of_le inside]
    exact Memory.readByte_writeBytes_outside wf inside (h.resolve_left (Nat.not_lt_of_le inside))
  · rw [hostMemWrite_of_lt (Nat.lt_of_not_le inside)]

theorem length_hostMemRead (a n : Nat) (s : State) : (hostMemRead a n s).length = n := by
  unfold hostMemRead
  split <;> simp

theorem getD_hostMemRead {a n j : Nat} (hj : j < n) :
    (hostMemRead a n s).getD j 0 = if a + n ≤ memSize then s.mem.readByte (a + j) else 0 := by
  unfold hostMemRead
  split
  · exact Memory.getD_readBytes s.mem n a j hj
  · simp [hj]

/-! ### The statements -/

/-- Settles O1: a write to CMD is issued, and the decoded command is run. -/
theorem stepRunsTheDecodedCommand : Obligations.StepRunsTheDecodedCommand := by
  intro s
  refine ⟨fun w rest i offered decoded => ?_, step_of_idle⟩
  calc step s = hostPort (.wr 0x00#8 w) (s.accept rest) := step_of_inbox offered
    _ = issue w ((s.accept rest).setCmd w) := hostPort_wr_cmd w _
    _ = exec i ((s.accept rest).setCmd w) := issue_of_decode decoded _

/-- Settles O7: each register under its number, and nothing in the gaps between them. -/
theorem hostReadFollowsTheRegisterMap : Obligations.HostReadFollowsTheRegisterMap := by
  intro s num rest offered
  refine ⟨readReg num (s.accept rest), step_of_inbox offered, ?_, fun k => ?_, fun gap => ?_⟩
  · have read (r : Reg) : num.toNat = r.number → (readReg num (s.accept rest)).toNat = regNat (s.accept rest) r :=
      readReg_number _
    simp only [List.forall_mem_cons, List.not_mem_nil, false_implies, implies_true, and_true]
    exact ⟨read .cmd, read .status, read .result, read .dataIn, read .dataOut, read .avoidLen, read .timeSec,
      read .timeNsec, read .fvBound, read .fvMode, read .fvBase, read .fvSize, read .fvCursor, read .fhMagic,
      read .fhId, read .fhLen, read .fhCrc, read .gMode, read .gSize, read .gFc, read .gFrames, read .ghMagic,
      read .ghVers, read .ghTsSec, read .ghTsNsec, read .ghNumFrames, read .ghHeaderLen, read .ghHcrc⟩
  · exact readReg_number (r := .avoid k) _
  · apply readReg_of_none
    apply regOf_eq_none
    simp only [List.mem_cons, List.not_mem_nil, or_false] at gap
    omega

/-- Settles O8: register by register, a data register's write is masked and every other number is ignored. -/
theorem hostWriteIsMaskedOrIgnored : Obligations.HostWriteIsMaskedOrIgnored := by
  intro s num v rest offered data
  refine ⟨writeReg num v (s.accept rest), (step_of_inbox offered).trans (hostPort_wr_data data),
    writeReg_frame num v (s.accept rest), ?_, ?_, ?_, ?_, fun k => ?_⟩
  · exact writeReg_dataIn.trans (if_congr (eq_number_iff .dataIn).symm rfl rfl)
  · rw [writeReg_avoidLen, apply_ite BitVec.toNat, BitVec.toNat_setWidth]
    exact if_congr (eq_number_iff .avoidLen).symm rfl rfl
  · rw [writeReg_timeSec, apply_ite BitVec.toNat, BitVec.toNat_setWidth]
    exact if_congr (eq_number_iff .timeSec).symm rfl rfl
  · rw [writeReg_timeNsec, apply_ite BitVec.toNat, BitVec.toNat_setWidth]
    exact if_congr (eq_number_iff .timeNsec).symm rfl rfl
  · rw [writeReg_avoid, apply_ite BitVec.toNat, BitVec.toNat_setWidth]
    exact if_congr regOf_eq_some rfl rfl

/-- Settles O9: the range check decides both transactions. -/
theorem hostMemoryTransactions : Obligations.HostMemoryTransactions := by
  intro s rest h
  refine ⟨fun a bs offered => ?_, fun a n offered => ?_⟩
  · refine ⟨hostMemWrite a bs (s.accept rest), step_of_inbox offered, hostMemWrite_frame a bs (s.accept rest),
      fun inside => ?_, fun x outside => readByte_hostMemWrite_outside (s := s.accept rest) h.mem outside⟩
    rw [hostMemWrite_of_le inside]
    exact Memory.readBytes_writeBytes h.mem inside
  · exact ⟨hostMemRead a n (s.accept rest), step_of_inbox offered, length_hostMemRead a n _,
      fun j hj => getD_hostMemRead hj⟩

end Sys2Proof.Machine
end

section
/-! PROOFS. The invariant: reset meets it, each update keeps it under the guard its command checks, and so every step keeps it. -/

namespace Sys2Proof.Machine

variable {s t : State}

/-! ### The updates -/

theorem Status.code_le (st : Status) : st.code.toNat ≤ 8 := by cases st <;> decide

/-- The invariant speaks of M, the view, the group registers, STATUS and the parameters only. -/
theorem Inv.congr (h : Inv s) (mem : t.mem = s.mem) (fv : t.fv = s.fv) (grp : t.grp = s.grp)
    (status : t.status = s.status) (params : t.params = s.params) : Inv t where
  mem := mem ▸ h.mem
  view := by rw [ViewOk, fv]; exact h.view
  group := by rw [GroupOk, fv, grp]; exact h.group
  status := status ▸ h.status
  params := params ▸ h.params

theorem Inv.finished (h : Inv s) (st : Status) (res : BitVec 32) : Inv (s.finished st res) :=
  ⟨h.mem, h.view, h.group, st.code_le, h.params⟩

theorem Inv.setMem (h : Inv s) {m : Memory} (hm : m.wf = true) : Inv (s.setMem m) :=
  ⟨hm, h.view, h.group, h.status, h.params⟩

theorem Inv.setDataOut (h : Inv s) (v : BitVec 64) : Inv (s.setDataOut v) := h.congr rfl rfl rfl rfl rfl

theorem Inv.setFh (h : Inv s) (fh : FrameHeader) : Inv (s.setFh fh) := h.congr rfl rfl rfl rfl rfl

theorem Inv.setGh (h : Inv s) (gh : GroupHeader) : Inv (s.setGh gh) := h.congr rfl rfl rfl rfl rfl

/-- A cursor that leaves room for the header stays inside the view (10_state.md rule R32). -/
theorem Inv.setCursor (h : Inv s) {n : Nat} (room : 5 + n ≤ s.fv.size.toNat) : Inv (s.setCursor n) where
  mem := h.mem
  view := fun bound => by
    obtain ⟨mode, minSize, maxSize, inside, -⟩ := h.view bound
    have cursor : (BitVec.ofNat 12 n).toNat ≤ n := by simpa using Nat.mod_le n _
    exact ⟨mode, minSize, maxSize, inside, by simp only [State.setCursor_fv]; omega⟩
  group := h.group
  status := h.status
  params := h.params

/-- With no group open the invariant asks nothing of the group registers. -/
theorem groupOk_of_none (none : s.grp.mode = groupNone) : GroupOk s := by
  refine ⟨?_, fun opened => absurd none opened, fun read => ?_, fun write => ?_⟩
  · rw [none]; decide
  · exact absurd (none.symm.trans read) (by decide)
  · exact absurd (none.symm.trans write) (by decide)

/-- A bind of a legal range, while no group is open. -/
theorem Inv.bindView (h : Inv s) (none : s.grp.mode = groupNone) {base size : Nat} {mode : BitVec 2}
    (hmode : mode ≠ 0#2) (minSize : 5 ≤ size) (maxSize : size ≤ 2052) (range : base + size ≤ 65535) :
    Inv (bindView base size mode s) where
  mem := h.mem
  view := fun _ => by
    have hbase : (BitVec.ofNat 16 base).toNat = base := Nat.mod_eq_of_lt (by omega)
    have hsize : (BitVec.ofNat 12 size).toNat = size := Nat.mod_eq_of_lt (by omega)
    simp only [bindView_fv, hbase, hsize]
    exact ⟨hmode, minSize, maxSize, range, by simpa using minSize⟩
  group := groupOk_of_none none
  status := h.status
  params := h.params

/-- The open group's registers fit its mode and that of the view bound in it (10_state.md rules R35, R36 and R38). -/
def GroupModeOk (g : GroupView) (mode : BitVec 2) : Prop :=
  (g.mode = groupRead ∧ mode = modeRead ∧ g.frames = 0) ∨
    (g.mode = groupWrite ∧ mode = modeWrite ∧ g.size.toNat = 65535)

theorem GroupModeOk.view_ne_zero {g : GroupView} {mode : BitVec 2} (h : GroupModeOk g mode) : mode ≠ 0#2 := by
  rcases h with ⟨-, rfl, -⟩ | ⟨-, rfl, -⟩ <;> decide

theorem GroupModeOk.group_ne_three {g : GroupView} {mode : BitVec 2} (h : GroupModeOk g mode) : g.mode ≠ 3#2 := by
  rcases h with ⟨group, -⟩ | ⟨group, -⟩ <;> rw [group] <;> decide

theorem GroupModeOk.of_read {g : GroupView} {mode : BitVec 2} (h : GroupModeOk g mode) (read : g.mode = groupRead) :
    g.frames = 0 ∧ mode = modeRead := by
  rcases h with ⟨-, view, frames⟩ | ⟨group, -⟩
  · exact ⟨frames, view⟩
  · exact absurd (group.symm.trans read) (by decide)

theorem GroupModeOk.of_write {g : GroupView} {mode : BitVec 2} (h : GroupModeOk g mode) (write : g.mode = groupWrite) :
    g.size.toNat = 65535 ∧ mode = modeWrite := by
  rcases h with ⟨group, -⟩ | ⟨-, view, size⟩
  · exact absurd (group.symm.trans write) (by decide)
  · exact ⟨size, view⟩

/-- Positioning the current frame where a whole header is left in the group's buffer (10_state.md rule R37). -/
theorem inv_bindCurrent (mem : s.mem.wf = true) (status : s.status.toNat ≤ 8) (params : 18 ≤ s.params.groupMinSize)
    {p : Nat} {mode : BitVec 2} (past : 13 ≤ p) (room : p + 5 ≤ s.grp.size.toNat) (modes : GroupModeOk s.grp mode) :
    Inv (bindCurrent p mode s) := by
  have hgsize := s.grp.size.isLt
  have hbase : (BitVec.ofNat 16 p).toNat = p := Nat.mod_eq_of_lt (by omega)
  have hsize : (BitVec.ofNat 12 (viewSizeAt s.grp.size.toNat p)).toNat = min (s.grp.size.toNat - p) 2052 :=
    Nat.mod_eq_of_lt (Nat.lt_of_le_of_lt (Nat.min_le_right _ _) (by decide))
  refine ⟨mem, fun _ => ?_, ⟨modes.group_ne_three, fun _ => ?_, modes.of_read, modes.of_write⟩, status, params⟩
  · simp only [bindCurrent_fv, hbase, hsize]
    have minSize : 5 ≤ min (s.grp.size.toNat - p) 2052 := by omega
    have inside : p + min (s.grp.size.toNat - p) 2052 ≤ 65535 := by omega
    exact ⟨modes.view_ne_zero, minSize, Nat.min_le_right _ _, inside, by simpa using minSize⟩
  · simp only [bindCurrent_fv, bindCurrent_grp, hbase, hsize, BitVec.ofNat_eq_ofNat]
    exact ⟨trivial, trivial, trivial, past, room⟩

/-- In an open read group, the scanner's stops position the frame inside the buffer (43_group.md rule R184). -/
theorem Inv.bindCurrent_nextStop (h : Inv s) (group : s.grp.mode = groupRead) {v : Bool} {p : Nat}
    (stop : (nextStop s v).offset? = some p) : Inv (bindCurrent p modeRead s) := by
  obtain ⟨-, opened, read, -⟩ := h.group
  obtain ⟨-, -, -, past, -⟩ := opened (by rw [group]; decide)
  obtain ⟨start, room⟩ := scanNext_bounds stop
  have fromCursor : s.grp.fc.toNat ≤ scanStart s v := Nat.le_add_right _ _
  exact inv_bindCurrent h.mem h.status h.params (by omega) room (.inl ⟨group, rfl, (read group).1⟩)

/-! ### Commands -/

/-- The modes F.BIND accepts are legal values of FV_MODE (41_frame.md rule R132). -/
theorem setWidth_mode_ne_zero {mode : BitVec 8} (h : mode.toNat = 1 ∨ mode.toNat = 2 ∨ mode.toNat = 3) :
    mode.setWidth 2 ≠ 0#2 := by
  intro zero
  have : mode.toNat % 4 = 0 := by simpa using congrArg BitVec.toNat zero
  omega

/-- A command keeps the invariant. -/
theorem Inv.exec {i : Instr} (h : Inv s) (ht : exec i s = .next t) : Inv t := by
  cases exec_ends ht with
  | unchanged => exact h.finished _ _
  | @fBind base size mode args =>
    obtain ⟨modes, minSize, maxSize, range⟩ := bindArgsOk_iff.mp args
    have detached : Inv (s.setGroup { s.grp with mode := groupNone }) :=
      ⟨h.mem, h.view, groupOk_of_none rfl, h.status, h.params⟩
    exact (detached.bindView rfl (setWidth_mode_ne_zero modes) minSize maxSize range).finished _ _
  | fWrdata bound write room =>
    refine Inv.finished (Inv.setCursor (h.setMem (Memory.wf_writeBytes _ h.mem _)) ?_) _ _
    simpa [Nat.add_assoc] using hasRoom_iff.mp room
  | fRddata bound read room =>
    refine Inv.finished (Inv.setCursor (h.setDataOut _) ?_) _ _
    simpa [Nat.add_assoc] using hasRoom_iff.mp room
  | fWrhdr => exact ((h.setFh _).setMem (Memory.wf_writeBytes _ h.mem _)).finished _ _
  | fStuff bound avoid room => exact ((h.setMem (Memory.wf_writeBytes _ h.mem _)).setCursor room).finished _ _
  | fDestuff => exact (h.setMem (Memory.wf_writeBytes _ h.mem _)).finished _ _
  | gOpenw =>
    refine Inv.finished (inv_bindCurrent ?_ ?_ ?_ ?_ ?_ ?_) _ _
    exacts [Memory.wf_cleared, h.status, h.params, Nat.le_refl _, by simp [ghSize, groupMaxSize], .inr ⟨rfl, rfl, rfl⟩]
  | gOpenr minSize =>
    have room := h.params.trans minSize
    refine Inv.finished (inv_bindCurrent ?_ ?_ ?_ ?_ ?_ ?_) _ _
    exacts [h.mem, h.status, h.params, Nat.le_refl _, room, .inl ⟨rfl, rfl, rfl⟩]
  | gCommit group valid room =>
    obtain ⟨-, opened, -, write⟩ := h.group
    obtain ⟨-, -, -, past, -⟩ := opened (by rw [group]; decide)
    have past' : 13 ≤ s.grp.fc.toNat + fhSize + s.fh.len.toNat := by omega
    refine Inv.finished (inv_bindCurrent ?_ ?_ ?_ ?_ ?_ ?_) _ _
    exacts [h.mem, h.status, h.params, past', room, .inr ⟨group, rfl, (write group).1⟩]
  | gNextSentinel group stop => exact (h.bindCurrent_nextStop group (by rw [stop]; rfl)).finished _ _
  | gNextFrame group stop => exact (h.bindCurrent_nextStop group (by rw [stop]; rfl)).finished _ _
  | gTrailer =>
    exact ((h.setGh _).setMem (Memory.wf_writeBytes _ (Memory.wf_writeBytes _ h.mem _) _)).finished _ _

/-! ### Host transactions -/

/-- Settles O14: after reset nothing is bound and no group is open, and GROUP_MIN_SIZE is its default. -/
theorem resetMeetsInvariant : Obligations.ResetMeetsInvariant where
  mem := Memory.wf_reset
  view := by decide
  group := by decide
  status := by decide
  params := by decide

/-- The reset transaction takes every register the invariant speaks of from State.reset, and keeps M and the parameters. -/
theorem Inv.resetBlock (h : Inv s) : Inv (resetBlock s) :=
  ⟨h.mem, resetMeetsInvariant.view, resetMeetsInvariant.group, resetMeetsInvariant.status, h.params⟩

/-- A host write changes no register the invariant speaks of. -/
theorem Inv.writeReg (h : Inv s) (num : RegNum) (v : BitVec 64) : Inv (writeReg num v s) := by
  rw [writeReg_frame]
  exact h.congr rfl rfl rfl rfl rfl

theorem Inv.hostMemWrite (h : Inv s) (a : Nat) (bs : List Byte) : Inv (hostMemWrite a bs s) := by
  by_cases inside : a + bs.length ≤ memSize
  · rw [hostMemWrite_of_le inside]
    exact h.setMem (Memory.wf_writeBytes bs h.mem a)
  · rw [hostMemWrite_of_lt (Nat.lt_of_not_le inside)]
    exact h

/-- A word written to CMD runs a command or fails. -/
theorem Inv.issue (h : Inv s) {w : CommandWord} (ht : issue w s = .next t) : Inv t := by
  cases decoded : decode w with
  | ok i => exact h.exec (issue_of_decode decoded s ▸ ht)
  | error e =>
    rw [issue_of_error decoded, fail_next] at ht
    exact ht ▸ h.finished _ _

/-- A host transaction keeps the invariant. -/
theorem Inv.hostPort (h : Inv s) {x : Transaction} (ht : hostPort x s = .next t) : Inv t := by
  cases x with
  | rd num =>
    cases ht
    exact h.congr rfl rfl rfl rfl rfl
  | wr num v =>
    by_cases cmd : num = 0x00#8
    · subst cmd
      exact (h.congr (t := s.setCmd v) rfl rfl rfl rfl rfl).issue ht
    · rw [hostPort_wr_data cmd] at ht
      cases ht
      exact h.writeReg num v
  | memRd a n =>
    cases ht
    exact h.congr rfl rfl rfl rfl rfl
  | memWr a bs =>
    cases ht
    exact h.hostMemWrite a bs
  | reset =>
    cases ht
    exact h.resetBlock

/-- Settles O15: accepting a transaction leaves the invariant alone, and each transaction keeps it, a command among them by the
ways it can end. -/
theorem stepKeepsInvariant : Obligations.StepKeepsInvariant := by
  intro s t h ht
  obtain ⟨-, rfl⟩ | ⟨x, rest, -, hx⟩ := step_next ht
  · exact h
  · exact (h.congr (t := s.accept rest) rfl rfl rfl rfl rfl).hostPort hx

end Sys2Proof.Machine
end

section
/-! PROOFS. What a command leaves unchanged: the written-by column of the register map (10_state.md rule R23), read off the ways a
command can end; and the failures while nothing is bound and no group is open. -/

namespace Sys2Proof.Machine

variable {s t : State} {i : Instr}

/-! ### The registers a command leaves -/

/-- No command writes a register that the host writes, nor either end of the host port. -/
theorem Ends.host_side (h : Ends s i t) :
    t.cmd = s.cmd ∧ t.dataIn = s.dataIn ∧ t.avoidLen = s.avoidLen ∧ t.avoid = s.avoid ∧
      t.timeSec = s.timeSec ∧ t.timeNsec = s.timeNsec ∧ t.inbox = s.inbox ∧ t.reply = s.reply := by
  cases h <;> simp

/-- DATA_OUT is F.RDDATA's. -/
theorem Ends.dataOut_eq (h : Ends s i t) (load : ∀ w, i ≠ .fRddata w) : t.dataOut = s.dataOut := by
  cases h with
  | @fRddata width => exact absurd rfl (load width)
  | _ => simp

/-- Only a bind replaces the view; a payload access and F.STUFF move its cursor. -/
theorem Ends.fv_eq (h : Ends s i t) (bind : bindsView i = false) : t.fv = { s.fv with cursor := t.fv.cursor } := by
  cases h with
  | fBind | gOpenw | gOpenr | gCommit | gNextSentinel | gNextFrame => cases bind
  | _ => simp

theorem Ends.cursor_eq (h : Ends s i t) (bind : bindsView i = false) (store : ∀ w, i ≠ .fWrdata w)
    (load : ∀ w, i ≠ .fRddata w) (stuff : i ≠ .fStuff) : t.fv.cursor = s.fv.cursor := by
  cases h with
  | fBind | gOpenw | gOpenr | gCommit | gNextSentinel | gNextFrame => cases bind
  | @fWrdata width => exact absurd rfl (store width)
  | @fRddata width => exact absurd rfl (load width)
  | fStuff => exact absurd rfl stuff
  | _ => simp

/-- The cached frame header is a bind's and F.WRHDR's. -/
theorem Ends.fh_eq (h : Ends s i t) (bind : bindsView i = false) (header : ∀ id, i ≠ .fWrhdr id) : t.fh = s.fh := by
  cases h with
  | fBind | gOpenw | gOpenr | gCommit | gNextSentinel | gNextFrame => cases bind
  | @fWrhdr id => exact absurd rfl (header id)
  | _ => simp

/-- The two commands that open a group. -/
def opensGroup : Instr → Bool
  | .gOpenw | .gOpenr _ => true
  | _ => false

theorem opensGroup_eq_false (openw : i ≠ .gOpenw) (openr : ∀ size, i ≠ .gOpenr size) : opensGroup i = false := by
  cases i with
  | gOpenw => exact absurd rfl openw
  | gOpenr size => exact absurd rfl (openr size)
  | _ => rfl

theorem Ends.grp_mode_eq (h : Ends s i t) (opens : opensGroup i = false) (bind : ∀ base size mode, i ≠ .fBind base size mode) :
    t.grp.mode = s.grp.mode := by
  cases h with
  | gOpenw | gOpenr => cases opens
  | @fBind base size mode => exact absurd rfl (bind base size mode)
  | _ => simp

theorem Ends.grp_size_eq (h : Ends s i t) (opens : opensGroup i = false) : t.grp.size = s.grp.size := by
  cases h with
  | gOpenw | gOpenr => cases opens
  | _ => simp

theorem Ends.grp_fc_eq (h : Ends s i t) (opens : opensGroup i = false) (commit : i ≠ .gCommit) (next : i ≠ .gNext) :
    t.grp.fc = s.grp.fc := by
  cases h with
  | gOpenw | gOpenr => cases opens
  | gCommit => exact absurd rfl commit
  | gNextSentinel | gNextFrame => exact absurd rfl next
  | _ => simp

theorem Ends.grp_frames_eq (h : Ends s i t) (opens : opensGroup i = false) (commit : i ≠ .gCommit) :
    t.grp.frames = s.grp.frames := by
  cases h with
  | gOpenw | gOpenr => cases opens
  | gCommit => exact absurd rfl commit
  | _ => simp

/-- G.TRAILER keeps GH_VERS (43_group.md rule R185), so only opening a group writes it. -/
theorem Ends.gh_vers_eq (h : Ends s i t) (opens : opensGroup i = false) : t.gh.vers = s.gh.vers := by
  cases h with
  | gOpenw | gOpenr => cases opens
  | gTrailer => simp [trailerHeader]
  | _ => simp

theorem Ends.gh_eq (h : Ends s i t) (opens : opensGroup i = false) (trailer : i ≠ .gTrailer) : t.gh = s.gh := by
  cases h with
  | gOpenw | gOpenr => cases opens
  | gTrailer => exact absurd rfl trailer
  | _ => simp

/-- Settles O20: each row of the register map, from the ways a command can end. -/
theorem commandsWriteOnlyTheirRegisters : Obligations.CommandsWriteOnlyTheirRegisters := by
  intro s t i ht
  have h := exec_ends ht
  obtain ⟨cmd, dataIn, avoidLen, avoid, timeSec, timeNsec, inbox, reply⟩ := h.host_side
  refine ⟨cmd, dataIn, avoidLen, avoid, timeSec, timeNsec, inbox, reply, h.dataOut_eq, fun bind => ?_, h.cursor_eq,
    fun bind header => ?_, fun bind openw openr => h.grp_mode_eq (opensGroup_eq_false openw openr) bind,
    fun openw openr => h.grp_size_eq (opensGroup_eq_false openw openr),
    fun openw openr => h.grp_fc_eq (opensGroup_eq_false openw openr),
    fun openw openr => h.grp_frames_eq (opensGroup_eq_false openw openr),
    fun openw openr => h.gh_vers_eq (opensGroup_eq_false openw openr), fun openw openr trailer => ?_⟩
  · rw [h.fv_eq bind]
    exact ⟨rfl, rfl, rfl, rfl⟩
  · rw [h.fh_eq bind header]
    exact ⟨rfl, rfl, rfl, rfl⟩
  · rw [h.gh_eq (opensGroup_eq_false openw openr) trailer]
    exact ⟨rfl, rfl, rfl, rfl, rfl, rfl⟩

/-! ### Nothing bound, no group open -/

theorem whenBound_of_unbound {k : Outcome} (h : s.fv.bound = 0#1) : whenBound s k = fail .errUnbound s := if_pos h

theorem whenGroup_of_not_mem {modes : List (BitVec 2)} {k : Outcome} (h : s.grp.mode ∉ modes) :
    whenGroup modes s k = fail .errCapability s := if_neg h

/-- A frame command but F.BIND begins with the unbound check (41_frame.md rule R131). -/
theorem exec_eq_whenBound (checks : checksBound i = true) (s : State) : ∃ k, exec i s = whenBound s k := by
  cases i with
  | fBind | gOpenw | gOpenr | gCommit | gNext | gTrailer | gHdrvalid | gCalcsize => cases checks
  | _ => exact ⟨_, rfl⟩

/-- A group command that opens no group begins with the check of G_MODE (43_group.md rule R180). -/
theorem exec_eq_whenGroup {modes : List (BitVec 2)} (checks : groupModes i = some modes) (s : State) :
    ∃ k, exec i s = whenGroup modes s k := by
  cases i with
  | gCommit | gNext | gTrailer | gHdrvalid | gCalcsize =>
    cases checks
    exact ⟨_, rfl⟩
  | _ => cases checks

/-- No command with a group-mode check accepts NONE. -/
theorem groupNone_not_mem {modes : List (BitVec 2)} (checks : groupModes i = some modes) : groupNone ∉ modes := by
  cases i with
  | gCommit | gNext | gTrailer | gHdrvalid | gCalcsize =>
    cases checks
    decide
  | _ => cases checks

/-- Settles O12: each such command's own check fails first, and reset leaves nothing bound and no group open. -/
theorem afterResetFrameAndGroupCommandsFail : Obligations.AfterResetFrameAndGroupCommandsFail := by
  intro s i
  refine ⟨fun unbound checks => ?_, fun none checks => ?_, fun rest offered => ?_⟩
  · obtain ⟨k, hk⟩ := exec_eq_whenBound checks s
    rw [hk, whenBound_of_unbound unbound]
    rfl
  · obtain ⟨modes, hmodes⟩ := Option.isSome_iff_exists.mp checks
    obtain ⟨k, hk⟩ := exec_eq_whenGroup hmodes s
    rw [hk, whenGroup_of_not_mem (none ▸ groupNone_not_mem hmodes)]
    rfl
  · exact ⟨resetBlock (s.accept rest), step_of_inbox offered, rfl, rfl⟩

end Sys2Proof.Machine
end

section
/-! SUPPORT. Where in M a frame command reads and stores: every range it accesses lies inside the view, and a bound view lies inside
M (20_memory.md rule R58). -/

namespace Sys2Proof.Machine

variable {s t : State} {i : Instr} {v : FrameView} {a n : Nat}

/-- The n bytes of M from address a on lie inside the view. -/
def FrameView.Covers (v : FrameView) (a n : Nat) : Prop :=
  v.base.toNat ≤ a ∧ a + n ≤ v.base.toNat + v.size.toNat

theorem FrameView.Covers.shorter {k : Nat} (h : v.Covers a n) (le : k ≤ n) : v.Covers a k := ⟨h.1, by have := h.2; omega⟩

/-- A bound view lies inside M (10_state.md rule R33). -/
theorem Inv.view_le (h : Inv s) (bound : s.fv.bound = 1#1) : s.fv.base.toNat + s.fv.size.toNat ≤ memSize := by
  obtain ⟨-, -, -, inside, -⟩ := h.view bound
  exact inside

theorem Inv.le_of_covers (h : Inv s) (bound : s.fv.bound = 1#1) (range : s.fv.Covers a n) : a + n ≤ memSize :=
  range.2.trans (h.view_le bound)

/-- An open group has a view bound in it (10_state.md rule R37). -/
theorem Inv.bound_of_group (h : Inv s) (opened : s.grp.mode ≠ groupNone) : s.fv.bound = 1#1 := by
  obtain ⟨-, view, -, -⟩ := h.group
  exact (view opened).1

/-- The frame cursor of an open group leaves room for the sentinel in the group's buffer (10_state.md rule R37). -/
theorem Inv.sentinel_room (h : Inv s) (opened : s.grp.mode ≠ groupNone) :
    13 ≤ s.grp.fc.toNat ∧ s.grp.fc.toNat + 5 ≤ s.grp.size.toNat := by
  obtain ⟨-, view, -, -⟩ := h.group
  obtain ⟨-, -, -, past, room⟩ := view opened
  exact ⟨past, room⟩

/-- The payload bytes of an access that has room (41_frame.md rules R133 and R134). -/
theorem covers_access {w : Nat} (room : s.hasRoom w = true) : s.fv.Covers s.cursorAddr w := by
  have := hasRoom_iff.mp room
  simp only [FrameView.Covers, State.cursorAddr, State.payloadBase, fhSize]
  omega

/-- The header bytes and the written payload (10_state.md rule R32). -/
theorem Inv.covers_written (h : Inv s) (bound : s.fv.bound = 1#1) :
    s.fv.Covers s.fv.base.toNat (fhSize + s.fv.cursor.toNat) := by
  obtain ⟨-, -, -, -, cursor⟩ := h.view bound
  exact ⟨Nat.le_refl _, by simp only [fhSize]; omega⟩

theorem covers_payload (fits : fhSize + n ≤ s.fv.size.toNat) : s.fv.Covers s.payloadBase n := by
  simp only [FrameView.Covers, State.payloadBase]
  omega

theorem Inv.covers_writtenPayload (h : Inv s) (bound : s.fv.bound = 1#1) :
    s.fv.Covers s.payloadBase s.fv.cursor.toNat := by
  obtain ⟨-, -, -, -, cursor⟩ := h.view bound
  exact covers_payload (by simp only [fhSize]; omega)

/-- The declared payload of a valid view (40_fields_crc.md rule R109). -/
theorem covers_declaredPayload (valid : s.viewValid = true) : s.fv.Covers s.payloadBase s.fh.len.toNat :=
  covers_payload (fits_le (headerFits_of_viewValid valid))

/-- F.STUFF's output is the written payload and the escape bytes (42_stuffing.md rule R162). -/
theorem length_stuffedPayload (avoid : s.avoidOk = true) :
    s.stuffedPayload.1.length = s.fv.cursor.toNat + s.stuffedPayload.2 := by
  have head : s.avoidHead ≠ [] := by
    intro empty
    have length := avoidHead_length avoid
    simp only [State.avoidOk, Bool.and_eq_true, decide_eq_true_eq] at avoid
    rw [empty, List.length_nil] at length
    omega
  simpa [State.stuffedPayload] using stuffBytes_length head s.escapeByte (s.mem.readBytes s.payloadBase s.fv.cursor.toNat)

/-- F.DESTUFF's output is no longer than the declared payload (42_stuffing.md rule R163). -/
theorem length_destuffed_le {p : List Byte} {e : Byte} {out : List Byte × Nat} {m : Memory}
    (h : destuffBytes p e (m.readBytes a n) = some out) : out.1.length ≤ n := by
  have := destuffBytes_length h
  rw [Memory.length_readBytes] at this
  omega

/-- A frame command stores nothing, or one byte sequence inside the view. -/
theorem Ends.stores_in_view (h : Ends s i t) (inv : Inv s) (frame : checksBound i = true) :
    t.mem = s.mem ∨
      ∃ a bs, s.fv.bound = 1#1 ∧ s.fv.Covers a bs.length ∧ t.mem = s.mem.writeBytes a bs := by
  cases h with
  | unchanged | fRddata => exact .inl rfl
  | fBind | gOpenw | gOpenr | gCommit | gNextSentinel | gNextFrame | gTrailer => cases frame
  | fWrdata bound write room =>
    refine .inr ⟨_, _, bound, ?_, rfl⟩
    simpa using covers_access room
  | fWrhdr bound =>
    refine .inr ⟨_, _, bound, ?_, rfl⟩
    simpa using (inv.covers_written bound).shorter (Nat.le_add_right fhSize _)
  | fStuff bound avoid room =>
    refine .inr ⟨_, _, bound, ?_, rfl⟩
    simpa [length_stuffedPayload avoid] using covers_payload room
  | fDestuff bound avoid valid destuffed =>
    exact .inr ⟨_, _, bound, (covers_declaredPayload valid).shorter (length_destuffed_le destuffed), rfl⟩

end Sys2Proof.Machine
end

section
/-! PROOFS. Failures and stores, read off the ways a command can end (20_memory.md rules R55 and R58). -/

namespace Sys2Proof.Machine

variable {s t : State} {i : Instr}

/-- Settles O21: but for `unchanged`, a command ends OK, or it is G.NEXT at the sentinel. -/
theorem failedCommandChangesOnlyStatusAndResult : Obligations.FailedCommandChangesOnlyStatusAndResult := by
  intro s t i ht failed notSentinel
  cases exec_ends ht with
  | unchanged => rfl
  | gNextSentinel => exact absurd ⟨rfl, rfl⟩ notSentinel
  | _ => exact absurd rfl failed

theorem Ends.readByte_outside_view (h : Ends s i t) (inv : Inv s) (frame : checksBound i = true) {x : Nat}
    (outside : x < s.fv.base.toNat ∨ s.fv.base.toNat + s.fv.size.toNat ≤ x) :
    t.mem.readByte x = s.mem.readByte x := by
  obtain same | ⟨a, bs, bound, range, stored⟩ := h.stores_in_view inv frame
  · rw [same]
  · rw [stored]
    refine Memory.readByte_writeBytes_outside inv.mem (inv.le_of_covers bound range) ?_
    obtain ⟨lower, upper⟩ := range
    omega

/-- G.TRAILER stores the sentinel at the frame cursor and the group header at 0 (43_group.md rule R185). -/
theorem Ends.readByte_outside_group (h : Ends s .gTrailer t) (inv : Inv s) {x : Nat} (outside : s.grp.size.toNat ≤ x) :
    t.mem.readByte x = s.mem.readByte x := by
  cases h with
  | unchanged => rfl
  | gTrailer group =>
    obtain ⟨past, room⟩ := inv.sentinel_room (by rw [group]; decide)
    have buffer : s.grp.size.toNat ≤ memSize := Nat.le_of_lt_succ s.grp.size.isLt
    have sentinel : (serFH sentinelHeader).length = 5 := length_serFH _
    have header : (serGH (trailerHeader s)).length = 13 := length_serGH _
    calc ((s.mem.writeBytes s.grp.fc.toNat (serFH sentinelHeader)).writeBytes 0 (serGH (trailerHeader s))).readByte x
        = (s.mem.writeBytes s.grp.fc.toNat (serFH sentinelHeader)).readByte x :=
          Memory.readByte_writeBytes_outside (Memory.wf_writeBytes _ inv.mem _) (by omega) (.inr (by omega))
      _ = s.mem.readByte x := Memory.readByte_writeBytes_outside inv.mem (by omega) (.inr (by omega))

/-- The commands with a store of their own (20_memory.md rule R58). -/
def storesBytes : Instr → Bool
  | .fWrdata _ | .fWrhdr _ | .fStuff | .fDestuff | .gOpenw | .gTrailer => true
  | _ => false

theorem Ends.mem_eq (h : Ends s i t) (query : storesBytes i = false) : t.mem = s.mem := by
  cases h with
  | fWrdata | fWrhdr | fStuff | fDestuff | gOpenw | gTrailer => cases query
  | _ => rfl

/-- Settles O23: the range of each store, and the commands without one. -/
theorem commandsStoreOnlyInTheirRange : Obligations.CommandsStoreOnlyInTheirRange := by
  intro s t i inv ht
  have h := exec_ends ht
  refine ⟨fun frame x => h.readByte_outside_view inv frame, ?_, fun query => h.mem_eq ?_, fun load => h.mem_eq ?_⟩
  · rintro rfl x
    exact h.readByte_outside_group inv
  · have none : ∀ j ∈ [Instr.fIsvalid, .fIseog, .fMsgsize, .fProcsize, .gCommit, .gNext, .gHdrvalid, .gCalcsize],
        storesBytes j = false := by decide
    exact none i query
  · rcases load with ⟨w, rfl⟩ | ⟨base, size, mode, rfl⟩ | ⟨size, rfl⟩ <;> rfl

end Sys2Proof.Machine
end

section
/-! PROOFS. No step stops: each operation goes on under the guard its command checks, and the invariant puts every access inside M
(20_memory.md rule R58). -/

namespace Sys2Proof.Machine

variable {s : State} {k : Outcome}

/-- The command ends in a state: no fault and no refusal. -/
def GoesOn (o : Outcome) : Prop := ∃ t, o = .next t

namespace GoesOn

theorem finish {st : Status} {res : BitVec 32} : GoesOn (finish st res s) := ⟨_, rfl⟩

theorem fail {st : Status} : GoesOn (fail st s) := finish

theorem access {a n : Nat} (inside : a + n ≤ memSize) (h : GoesOn k) : GoesOn (access a n k) := by
  rwa [access_of_le inside]

theorem ite {c : Prop} [Decidable c] {k' : Outcome} (h : c → GoesOn k) (h' : ¬ c → GoesOn k') :
    GoesOn (if c then k else k') := by
  by_cases hc : c
  · rw [if_pos hc]
    exact h hc
  · rw [if_neg hc]
    exact h' hc

theorem whenBound (h : s.fv.bound = 1#1 → GoesOn k) : GoesOn (whenBound s k) :=
  ite (fun _ => fail) fun bound => h (by have := s.fv.bound.isLt; bv_omega)

theorem whenGroup {modes : List (BitVec 2)} (h : s.grp.mode ∈ modes → GoesOn k) : GoesOn (whenGroup modes s k) :=
  ite h fun _ => fail

/-- A bound view lies in M, so the payload that Valid(FV) covers does too (40_fields_crc.md rule R109). -/
theorem withViewValid {f : Bool → Outcome} (inv : Inv s) (bound : s.fv.bound = 1#1) (h : GoesOn (f s.viewValid)) :
    GoesOn (withViewValid s f) := by
  rwa [withViewValid_of_view (inv.view_le bound)]

end GoesOn

/-! ### Each command goes on -/

theorem execFBind_goesOn (base size : BitVec 16) (mode : BitVec 8) : GoesOn (execFBind base size mode s) :=
  .ite (fun _ => .finish) fun _ => .fail

theorem execFWrdata_goesOn (inv : Inv s) (width : BitVec 8) : GoesOn (execFWrdata width s) :=
  .whenBound fun bound => .ite (fun _ => .fail) fun _ => .ite (fun _ => .fail) fun room =>
    .access (inv.le_of_covers bound (covers_access (by simpa using room))) .finish

theorem execFRddata_goesOn (inv : Inv s) (width : BitVec 8) : GoesOn (execFRddata width s) :=
  .whenBound fun bound => .ite (fun _ => .fail) fun _ => .ite (fun _ => .fail) fun room =>
    .access (inv.le_of_covers bound (covers_access (by simpa using room))) .finish

theorem execFWrhdr_goesOn (inv : Inv s) (id : BitVec 7) : GoesOn (execFWrhdr id s) :=
  .whenBound fun bound => .ite (fun _ => .fail) fun _ =>
    .access (inv.le_of_covers bound (inv.covers_written bound)) .finish

theorem execFIsvalid_goesOn (inv : Inv s) : GoesOn (execFIsvalid s) :=
  .whenBound fun bound => .withViewValid inv bound .finish

theorem execFIseog_goesOn : GoesOn (execFIseog s) := .whenBound fun _ => .finish

theorem execFStuff_goesOn (inv : Inv s) : GoesOn (execFStuff s) :=
  .whenBound fun bound => .ite (fun _ => .finish) fun _ =>
    .access (inv.le_of_covers bound (inv.covers_writtenPayload bound)) <|
      .ite (fun _ => .finish) fun room =>
        .access (inv.le_of_covers bound (covers_payload (Nat.le_of_not_lt room))) .finish

theorem execFDestuff_goesOn (inv : Inv s) : GoesOn (execFDestuff s) :=
  .whenBound fun bound => .ite (fun _ => .finish) fun _ => .withViewValid inv bound <|
    .ite (fun _ => .finish) fun _ => by split <;> exact .finish

theorem execFMsgsize_goesOn (inv : Inv s) : GoesOn (execFMsgsize s) :=
  .whenBound fun bound => .withViewValid inv bound .finish

theorem execFProcsize_goesOn : GoesOn (execFProcsize s) := .whenBound fun _ => .finish

theorem execGOpenw_goesOn : GoesOn (execGOpenw s) := .finish

theorem execGOpenr_goesOn (size : BitVec 16) : GoesOn (execGOpenr size s) :=
  .ite (fun _ => .fail) fun _ => .finish

theorem execGCommit_goesOn (inv : Inv s) : GoesOn (execGCommit s) :=
  .whenGroup fun group => .withViewValid inv (inv.bound_of_group (ne_of_mem_of_not_mem group (by decide))) <|
    .ite (fun _ => .fail) fun _ => .ite (fun _ => .fail) fun _ => .finish

theorem execGNext_goesOn (inv : Inv s) : GoesOn (execGNext s) :=
  .whenGroup fun group => .withViewValid inv (inv.bound_of_group (ne_of_mem_of_not_mem group (by decide))) <| by
    split <;> exact .finish

theorem execGTrailer_goesOn (inv : Inv s) : GoesOn (execGTrailer s) :=
  .whenGroup fun group => by
    obtain ⟨-, room⟩ := inv.sentinel_room (ne_of_mem_of_not_mem group (by decide))
    exact .access (room.trans (Nat.le_of_lt_succ s.grp.size.isLt)) .finish

theorem execGHdrvalid_goesOn : GoesOn (execGHdrvalid s) := .whenGroup fun _ => .finish

theorem execGCalcsize_goesOn : GoesOn (execGCalcsize s) := .whenGroup fun _ => .finish

/-- No command stops in a state that meets the invariant. -/
theorem exec_goesOn (inv : Inv s) (i : Instr) : GoesOn (exec i s) := by
  cases i with
  | fBind base size mode => exact execFBind_goesOn base size mode
  | fWrdata width => exact execFWrdata_goesOn inv width
  | fRddata width => exact execFRddata_goesOn inv width
  | fWrhdr id => exact execFWrhdr_goesOn inv id
  | fIsvalid => exact execFIsvalid_goesOn inv
  | fIseog => exact execFIseog_goesOn
  | fStuff => exact execFStuff_goesOn inv
  | fDestuff => exact execFDestuff_goesOn inv
  | fMsgsize => exact execFMsgsize_goesOn inv
  | fProcsize => exact execFProcsize_goesOn
  | gOpenw => exact execGOpenw_goesOn
  | gOpenr size => exact execGOpenr_goesOn size
  | gCommit => exact execGCommit_goesOn inv
  | gNext => exact execGNext_goesOn inv
  | gTrailer => exact execGTrailer_goesOn inv
  | gHdrvalid => exact execGHdrvalid_goesOn
  | gCalcsize => exact execGCalcsize_goesOn

/-! ### Each host transaction goes on -/

theorem issue_goesOn (inv : Inv s) (w : CommandWord) : GoesOn (issue w s) := by
  cases decoded : decode w with
  | ok i =>
    rw [issue_of_decode decoded]
    exact exec_goesOn inv i
  | error e =>
    rw [issue_of_error decoded]
    exact .fail

theorem hostPort_goesOn (inv : Inv s) (x : Transaction) : GoesOn (hostPort x s) := by
  cases x with
  | rd | memRd | memWr | reset => exact ⟨_, rfl⟩
  | wr num v =>
    exact .ite (fun _ => issue_goesOn (inv.congr (t := s.setCmd v) rfl rfl rfl rfl rfl) v) fun _ => ⟨_, rfl⟩

/-- Settles O16: a step is idle or one host transaction, and no transaction stops. -/
theorem noStepStops : Obligations.NoStepStops := by
  intro s inv
  cases offered : s.inbox with
  | nil => exact ⟨s, step_of_idle offered⟩
  | cons x rest =>
    rw [step_of_inbox offered]
    exact hostPort_goesOn (inv.congr (t := s.accept rest) rfl rfl rfl rfl rfl) x

end Sys2Proof.Machine
end

section
/-! PROOFS. A frame command in two memories that agree inside the view: the bytes it reads, and so its checks and its answer, are the
same, and so are the bytes it stores (20_memory.md rule R58). -/

namespace Sys2Proof.Machine

variable {s t : State} {v : FrameView} {m m' : Memory}

/-! ### Memories that agree inside a view -/

/-- Two memories hold the same bytes inside the view. -/
def AgreeInView (v : FrameView) (m m' : Memory) : Prop :=
  ∀ x, v.base.toNat ≤ x → x < v.base.toNat + v.size.toNat → m'.readByte x = m.readByte x

theorem AgreeInView.readBytes (agree : AgreeInView v m m') {a n : Nat} (range : v.Covers a n) :
    m'.readBytes a n = m.readBytes a n := by
  obtain ⟨lower, upper⟩ := range
  exact Memory.readBytes_congr n a fun x _ _ => agree x (by omega) (by omega)

/-- The same byte sequence stored in both keeps the agreement. -/
theorem AgreeInView.writeBytes (agree : AgreeInView v m m') (wf : m.wf = true) (wf' : m'.wf = true) {a : Nat}
    {bs : List Byte} (inside : a + bs.length ≤ memSize) : AgreeInView v (m.writeBytes a bs) (m'.writeBytes a bs) := by
  intro x lower upper
  rw [Memory.readByte_writeBytes bs wf' a x inside, Memory.readByte_writeBytes bs wf a x inside, agree x lower upper]

/-! ### What a command computes from the view's bytes -/

theorem AgreeInView.frameCrc (agree : AgreeInView s.fv s.mem m) (id : BitVec 7) {len : BitVec 11}
    (range : s.fv.Covers s.payloadBase len.toNat) :
    frameCrc s.params m id len s.fv.base.toNat = frameCrc s.params s.mem id len s.fv.base.toNat := by
  have payload : m.readBytes (s.fv.base.toNat + fhSize) len.toNat = s.mem.readBytes (s.fv.base.toNat + fhSize) len.toNat :=
    agree.readBytes range
  simp only [Machine.frameCrc, payload]

/-- Valid(FV) reads the payload only where the size terms put it inside the view (40_fields_crc.md rule R109). -/
theorem AgreeInView.viewValid (agree : AgreeInView s.fv s.mem m) : (s.setMem m).viewValid = s.viewValid := by
  simp only [State.viewValid, frameValid, State.setMem_params, State.setMem_mem, State.setMem_fh, State.setMem_fv]
  by_cases fits : headerFits s.fh s.fv.size.toNat = true
  · rw [agree.frameCrc s.fh.id (covers_payload (fits_le fits))]
  · simp only [fits, Bool.false_and]

/-- F.WRHDR's CRC covers the written payload (41_frame.md rule R135). -/
theorem AgreeInView.finalHeader (agree : AgreeInView s.fv s.mem m) (inv : Inv s) (bound : s.fv.bound = 1#1)
    (id : BitVec 7) : finalHeader id (s.setMem m) = finalHeader id s := by
  have length : (s.fv.cursor.setWidth 11).toNat ≤ s.fv.cursor.toNat := by simpa using Nat.mod_le _ _
  simp only [Machine.finalHeader, State.setMem_params, State.setMem_mem, State.setMem_fv,
    agree.frameCrc id ((inv.covers_writtenPayload bound).shorter length)]

theorem AgreeInView.stuffedPayload (agree : AgreeInView s.fv s.mem m) (inv : Inv s) (bound : s.fv.bound = 1#1) :
    (s.setMem m).stuffedPayload = s.stuffedPayload := by
  have payload : m.readBytes s.payloadBase s.fv.cursor.toNat = s.mem.readBytes s.payloadBase s.fv.cursor.toNat :=
    agree.readBytes (inv.covers_writtenPayload bound)
  exact congrArg (stuffBytes s.avoidHead s.escapeByte) payload

/-- F.STUFF, by its output (42_stuffing.md rule R162). -/
theorem execFStuff_eq (s : State) :
    execFStuff s =
      whenBound s
        (if !s.avoidOk then finish .errStuff minusOne s
        else access s.payloadBase s.fv.cursor.toNat
          (if s.fv.size.toNat < fhSize + (s.fv.cursor.toNat + s.stuffedPayload.2) then finish .errStuff minusOne s
          else access s.payloadBase (s.fv.cursor.toNat + s.stuffedPayload.2)
            (finish .ok (natResult s.stuffedPayload.2)
              ((s.setMem (s.mem.writeBytes s.payloadBase s.stuffedPayload.1)).setCursor
                (s.fv.cursor.toNat + s.stuffedPayload.2))))) := rfl

/-! ### Outcomes that are alike -/

/-- Where the one command ends, the other ends in the same registers, with the same bytes inside the view. -/
def Alike (v : FrameView) (o o' : Outcome) : Prop :=
  ∀ t, o = .next t → ∃ m', o' = .next (t.setMem m') ∧ AgreeInView v t.mem m'

namespace Alike

variable {k k' l l' : Outcome}

theorem finish (agree : AgreeInView v t.mem m) (st : Status) (res : BitVec 32) :
    Alike v (finish st res t) (finish st res (t.setMem m)) := by
  intro u hu
  rw [finish_next.mp hu]
  exact ⟨m, rfl, agree⟩

theorem fail (agree : AgreeInView v t.mem m) (st : Status) : Alike v (fail st t) (fail st (t.setMem m)) :=
  finish agree st 0#32

theorem access {a n : Nat} (h : Alike v k k') : Alike v (access a n k) (access a n k') := by
  intro u hu
  obtain ⟨inside, hk⟩ := access_next.mp hu
  rw [access_of_le inside]
  exact h u hk

theorem ite {c : Prop} [Decidable c] (h : c → Alike v k k') (h' : ¬ c → Alike v l l') :
    Alike v (if c then k else l) (if c then k' else l') := by
  by_cases hc : c
  · rw [if_pos hc, if_pos hc]
    exact h hc
  · rw [if_neg hc, if_neg hc]
    exact h' hc

end Alike

/-! ### Each frame command -/

/-- Two states of a bound view that differ in M, outside the view only. -/
structure SameView (s : State) (m : Memory) : Prop where
  inv : Inv s
  wf : m.wf = true
  bound : s.fv.bound = 1#1
  agree : AgreeInView s.fv s.mem m

namespace SameView

variable {k k' : Outcome}

/-- Both views are bound. -/
theorem whenBound (h : SameView s m) (body : Alike s.fv k k') :
    Alike s.fv (whenBound s k) (whenBound (s.setMem m) k') := by
  rwa [whenBound_of_bound h.bound, whenBound_of_bound (s := s.setMem m) h.bound]

/-- Both commands go on with the same value of Valid(FV). -/
theorem withViewValid (h : SameView s m) {f f' : Bool → Outcome} (body : Alike s.fv (f s.viewValid) (f' s.viewValid)) :
    Alike s.fv (withViewValid s f) (withViewValid (s.setMem m) f') := by
  have inside := h.inv.view_le h.bound
  rwa [withViewValid_of_view inside, withViewValid_of_view (s := s.setMem m) inside, h.agree.viewValid]

theorem finish (h : SameView s m) (st : Status) (res : BitVec 32) :
    Alike s.fv (finish st res s) (finish st res (s.setMem m)) :=
  .finish h.agree st res

theorem fail (h : SameView s m) (st : Status) : Alike s.fv (fail st s) (fail st (s.setMem m)) := .fail h.agree st

/-- Both store the same bytes inside the view. -/
theorem stored (h : SameView s m) {a : Nat} {bs : List Byte} (range : s.fv.Covers a bs.length) :
    AgreeInView s.fv (s.mem.writeBytes a bs) (m.writeBytes a bs) :=
  h.agree.writeBytes h.inv.mem h.wf (h.inv.le_of_covers h.bound range)

theorem execFWrdata (h : SameView s m) (width : BitVec 8) :
    Alike s.fv (execFWrdata width s) (execFWrdata width (s.setMem m)) :=
  h.whenBound <| .ite (fun _ => h.fail _) fun _ => .ite (fun _ => h.fail _) fun room => .access <| by
    have range : s.fv.Covers s.cursorAddr (beBytes width.toNat s.dataIn.toNat).length := by
      simpa using covers_access (by simpa using room)
    exact .finish (t := (s.setMem _).setCursor _) (h.stored range) _ _

theorem execFRddata (h : SameView s m) (width : BitVec 8) :
    Alike s.fv (execFRddata width s) (execFRddata width (s.setMem m)) :=
  h.whenBound <| .ite (fun _ => h.fail _) fun _ => .ite (fun _ => h.fail _) fun room => .access <| by
    have payload : m.readBytes s.cursorAddr width.toNat = s.mem.readBytes s.cursorAddr width.toNat :=
      h.agree.readBytes (covers_access (by simpa using room))
    rw [← payload]
    refine .finish (t := (s.setDataOut _).setCursor _) ?_ _ _
    exact h.agree

theorem execFWrhdr (h : SameView s m) (id : BitVec 7) :
    Alike s.fv (execFWrhdr id s) (execFWrhdr id (s.setMem m)) :=
  h.whenBound <| .ite (fun _ => h.fail _) fun _ => .access <| by
    have range : s.fv.Covers s.fv.base.toNat (serFH (finalHeader id s)).length := by
      simpa using (h.inv.covers_written h.bound).shorter (Nat.le_add_right fhSize _)
    rw [h.agree.finalHeader h.inv h.bound]
    exact .finish (t := (s.setFh _).setMem _) (h.stored range) _ _

theorem execFIsvalid (h : SameView s m) : Alike s.fv (execFIsvalid s) (execFIsvalid (s.setMem m)) :=
  h.whenBound <| h.withViewValid <| h.finish _ _

theorem execFIseog (h : SameView s m) : Alike s.fv (execFIseog s) (execFIseog (s.setMem m)) :=
  h.whenBound <| h.finish _ _

theorem execFStuff (h : SameView s m) : Alike s.fv (execFStuff s) (execFStuff (s.setMem m)) := by
  rw [execFStuff_eq, execFStuff_eq, h.agree.stuffedPayload h.inv h.bound]
  refine h.whenBound <| .ite (fun _ => h.finish _ _) fun avoid => .access <|
    .ite (fun _ => h.finish _ _) fun room => .access ?_
  have range : s.fv.Covers s.payloadBase s.stuffedPayload.1.length := by
    rw [length_stuffedPayload (by simpa using avoid)]
    exact covers_payload (Nat.le_of_not_lt room)
  exact .finish (t := (s.setMem _).setCursor _) (h.stored range) _ _

theorem execFDestuff (h : SameView s m) : Alike s.fv (execFDestuff s) (execFDestuff (s.setMem m)) :=
  h.whenBound <| .ite (fun _ => h.finish _ _) fun _ => h.withViewValid <| .ite (fun _ => h.finish _ _) fun valid => by
    have range : s.fv.Covers s.payloadBase s.fh.len.toNat := covers_declaredPayload (by simpa using valid)
    have same : destuffBytes (s.setMem m).avoidHead (s.setMem m).escapeByte
          ((s.setMem m).mem.readBytes (s.setMem m).payloadBase (s.setMem m).fh.len.toNat) =
        destuffBytes s.avoidHead s.escapeByte (s.mem.readBytes s.payloadBase s.fh.len.toNat) :=
      congrArg (destuffBytes s.avoidHead s.escapeByte) (h.agree.readBytes range)
    rw [same]
    split
    · exact h.finish _ _
    · rename_i out destuffed
      exact .finish (t := s.setMem _) (h.stored (range.shorter (length_destuffed_le destuffed))) _ _

theorem execFMsgsize (h : SameView s m) : Alike s.fv (execFMsgsize s) (execFMsgsize (s.setMem m)) :=
  h.whenBound <| h.withViewValid <| h.finish _ _

theorem execFProcsize (h : SameView s m) : Alike s.fv (execFProcsize s) (execFProcsize (s.setMem m)) :=
  h.whenBound <| h.finish _ _

/-- A frame command but F.BIND ends alike in both. -/
theorem exec (h : SameView s m) {i : Instr} (frame : checksBound i = true) :
    Alike s.fv (exec i s) (exec i (s.setMem m)) := by
  cases i with
  | fBind | gOpenw | gOpenr | gCommit | gNext | gTrailer | gHdrvalid | gCalcsize => cases frame
  | fWrdata width => exact h.execFWrdata width
  | fRddata width => exact h.execFRddata width
  | fWrhdr id => exact h.execFWrhdr id
  | fIsvalid => exact h.execFIsvalid
  | fIseog => exact h.execFIseog
  | fStuff => exact h.execFStuff
  | fDestuff => exact h.execFDestuff
  | fMsgsize => exact h.execFMsgsize
  | fProcsize => exact h.execFProcsize

end SameView

/-- Settles O24: command by command. -/
theorem frameCommandsReadOnlyTheView : Obligations.FrameCommandsReadOnlyTheView := by
  intro s t m i inv wf bound frame agree ht
  exact SameView.exec ⟨inv, wf, bound, agree⟩ frame t ht

end Sys2Proof.Machine
end

section
/-! PROOFS. Payload accesses at mixed widths: what F.WRDATA and F.RDDATA do where they have room, and the value of DATA_OUT as its
big-endian bytes (20_memory.md rules R50 and R52). -/

namespace Sys2Proof.Machine

variable {s : State} {width : BitVec 8} {n : Nat}

/-! ### Payload accesses with room -/

/-- F.WRDATA in a writable view with room (41_frame.md rule R133). -/
theorem execFWrdata_of_room (bound : s.fv.bound = 1#1) (write : s.canWrite = true)
    (room : s.hasRoom width.toNat = true) (inside : s.cursorAddr + width.toNat ≤ memSize) :
    execFWrdata width s =
      .next (((s.setMem (s.mem.writeBytes s.cursorAddr (beBytes width.toNat s.dataIn.toNat))).setCursor
        (s.fv.cursor.toNat + width.toNat)).finished .ok 1#32) := by
  rw [execFWrdata, whenBound_of_bound bound, write, room]
  exact access_of_le inside

/-- A readable view inside M with room for n bytes past the cursor (41_frame.md rule R134). -/
structure Readable (s : State) (n : Nat) : Prop where
  bound : s.fv.bound = 1#1
  read : s.canRead = true
  room : s.hasRoom n = true
  inside : s.fv.base.toNat + s.fv.size.toNat ≤ memSize

/-- The state in which F.RDDATA ends in a readable view. -/
def State.loaded (width : BitVec 8) (s : State) : State :=
  ((s.setDataOut (BitVec.ofNat 64 (beNat (s.mem.readBytes s.cursorAddr width.toNat)))).setCursor
    (s.fv.cursor.toNat + width.toNat)).finished .ok 1#32

theorem Readable.execFRddata (h : Readable s width.toNat) : execFRddata width s = .next (s.loaded width) := by
  rw [Machine.execFRddata, whenBound_of_bound h.bound, h.read, h.room]
  exact access_of_le ((covers_access h.room).2.trans h.inside)

theorem Readable.shorter {k : Nat} (h : Readable s n) (le : k ≤ n) : Readable s k where
  bound := h.bound
  read := h.read
  room := by
    have := hasRoom_iff.mp h.room
    exact hasRoom_iff.mpr (by omega)
  inside := h.inside

/-- F.RDDATA moves the cursor past the bytes it reads. -/
theorem Readable.cursor_loaded (h : Readable s width.toNat) :
    (s.loaded width).fv.cursor.toNat = s.fv.cursor.toNat + width.toNat := by
  have room := hasRoom_iff.mp h.room
  exact Nat.mod_eq_of_lt (by have := s.fv.size.isLt; omega)

theorem Readable.cursorAddr_loaded (h : Readable s width.toNat) :
    (s.loaded width).cursorAddr = s.cursorAddr + width.toNat := by
  rw [State.cursorAddr, h.cursor_loaded, ← Nat.add_assoc]
  rfl

/-- What is left of the room after one access serves the next. -/
theorem Readable.loaded (h : Readable s (width.toNat + n)) : Readable (s.loaded width) n where
  bound := h.bound
  read := h.read
  room := by
    have room := hasRoom_iff.mp h.room
    have cursor := (h.shorter (Nat.le_add_right _ n)).cursor_loaded
    refine hasRoom_iff.mpr ?_
    rw [cursor]
    exact Nat.le_trans (by omega) room
  inside := h.inside

/-! ### Big-endian values -/

/-- The last byte of a big-endian sequence is the lowest. -/
theorem ofNat_beNat_append (k : Nat) (bs : List Byte) (b : Byte) :
    BitVec.ofNat (k + 8) (beNat (bs ++ [b])) = BitVec.ofNat k (beNat bs) ++ b := by
  have value : beNat (bs ++ [b]) = 2 ^ 8 * beNat bs + b.toNat := by simp [beNat, Nat.mul_comm]
  refine BitVec.eq_of_getLsbD_eq fun i hi => ?_
  rw [value, BitVec.getLsbD_append, BitVec.getLsbD_ofNat, BitVec.getLsbD_ofNat, Nat.testBit_two_pow_mul_add _ b.isLt]
  by_cases low : i < 8
  · simp [low, hi, BitVec.getLsbD]
  · have high : i - 8 < k := by omega
    simp [low, hi, high]

theorem ofNat_beNat_one (a : Byte) : BitVec.ofNat 64 (beNat [a]) = 0#56 ++ a := ofNat_beNat_append 56 [] a

theorem ofNat_beNat_four (a b c d : Byte) : BitVec.ofNat 64 (beNat [a, b, c, d]) = 0#32 ++ a ++ b ++ c ++ d :=
  calc BitVec.ofNat 64 (beNat [a, b, c, d])
      = BitVec.ofNat 56 (beNat [a, b, c]) ++ d := ofNat_beNat_append 56 [a, b, c] d
    _ = BitVec.ofNat 48 (beNat [a, b]) ++ c ++ d := congrArg (· ++ d) (ofNat_beNat_append 48 [a, b] c)
    _ = BitVec.ofNat 40 (beNat [a]) ++ b ++ c ++ d := congrArg (· ++ c ++ d) (ofNat_beNat_append 40 [a] b)
    _ = 0#32 ++ a ++ b ++ c ++ d := congrArg (· ++ b ++ c ++ d) (ofNat_beNat_append 32 [] a)

/-- The two bytes F.WRDATA 2 stores. -/
theorem beBytes_two (d : BitVec 64) : beBytes 2 d.toNat = [d.extractLsb' 8 8, d.extractLsb' 0 8] := by
  simp [beBytes, BitVec.extractLsb', Nat.shiftRight_eq_div_pow]

/-- M after two bytes are stored: the one, the other, and what was past them. -/
theorem readByte_writeBytes_two {m : Memory} (wf : m.wf = true) {a : Nat} (inside : a + 2 ≤ memSize) (x y : Byte) :
    (m.writeBytes a [x, y]).readByte a = x ∧ (m.writeBytes a [x, y]).readByte (a + 1) = y ∧
      ∀ b, a + 2 ≤ b → (m.writeBytes a [x, y]).readByte b = m.readByte b := by
  have written := fun b => Memory.readByte_writeBytes [x, y] wf a b inside
  refine ⟨?_, ?_, fun b past => Memory.readByte_writeBytes_outside wf inside (.inr past)⟩
  · simp [written]
  · simp [written]

/-- One byte in DATA_OUT. -/
theorem loaded_one_dataOut : (s.loaded 1#8).dataOut = 0#56 ++ s.mem.readByte s.cursorAddr := ofNat_beNat_one _

/-- Four bytes in DATA_OUT. -/
theorem loaded_four_dataOut :
    (s.loaded 4#8).dataOut =
      0#32 ++ s.mem.readByte s.cursorAddr ++ s.mem.readByte (s.cursorAddr + 1) ++ s.mem.readByte (s.cursorAddr + 2) ++
        s.mem.readByte (s.cursorAddr + 3) :=
  ofNat_beNat_four _ _ _ _

/-- Settles O50: the two stored bytes and the two past them, read at the cursor one by one and together. -/
theorem mixedWidthAccessesSeeBigEndianBytes : Obligations.MixedWidthAccessesSeeBigEndianBytes := by
  intro s t inv bound mode fits ht
  have room : s.hasRoom 4 = true := hasRoom_iff.mpr (by omega)
  have inside : s.cursorAddr + 4 ≤ memSize := inv.le_of_covers bound (covers_access room)
  have write : s.canWrite = true := by rw [State.canWrite, mode]; decide
  have read : s.canRead = true := by rw [State.canRead, mode]; decide
  have stored : t.mem = s.mem.writeBytes s.cursorAddr [s.dataIn.extractLsb' 8 8, s.dataIn.extractLsb' 0 8] := by
    have room2 : s.hasRoom (2#8).toNat = true := hasRoom_iff.mpr (by rw [BitVec.toNat_ofNat]; omega)
    have written := (execFWrdata_of_room bound write room2 (Nat.le_trans (by simp) inside)).symm.trans ht
    cases written
    exact congrArg (s.mem.writeBytes s.cursorAddr) (beBytes_two s.dataIn)
  obtain ⟨first, second, past⟩ := readByte_writeBytes_two inv.mem (a := s.cursorAddr) (by omega)
    (s.dataIn.extractLsb' 8 8) (s.dataIn.extractLsb' 0 8)
  rw [← stored] at first second past
  have four : Readable { t with fv := s.fv } (4#8).toNat := ⟨bound, read, room, inv.view_le bound⟩
  have one : Readable { t with fv := s.fv } (1#8).toNat := four.shorter (by decide)
  have again : Readable (State.loaded 1#8 { t with fv := s.fv }) (1#8).toNat :=
    Readable.loaded (four.shorter (by decide))
  refine ⟨first, second, ⟨_, _, one.execFRddata, ?_, again.execFRddata, ?_⟩, ⟨_, four.execFRddata, ?_⟩⟩
  · rw [loaded_one_dataOut, ← first]
    rfl
  · rw [loaded_one_dataOut, one.cursorAddr_loaded, ← second]
    rfl
  · rw [loaded_four_dataOut, ← first, ← second, ← past _ (Nat.le_refl _), ← past _ (Nat.le_succ _)]
    rfl

end Sys2Proof.Machine
end

section
/-! SUPPORT. The fields of a command word (30_encoding.md rule R70): what a packed word carries, and that the mask of a row's format
lets only the format's own fields differ from zero (rules R71 and R78). -/

namespace Sys2Proof

variable {w : CommandWord} {r : OpRow} {i : Instr}

/-! ### The fields of a word -/

/-- RSV, bits 63..48 (R70). -/
def rsvField (w : CommandWord) : BitVec 16 := w.extractLsb' 48 16

@[simp] theorem opcField_packWord (opc f : BitVec 8) (a b : BitVec 16) : opcField (packWord opc f a b) = opc := by
  ext j hj
  simp [opcField, Laws.getLsbD_packWord, hj]

@[simp] theorem fField_packWord (opc f : BitVec 8) (a b : BitVec 16) : fField (packWord opc f a b) = f := by
  ext j hj
  have : 8 + j < 16 := by omega
  simp [fField, Laws.getLsbD_packWord, this, hj]

@[simp] theorem aField_packWord (opc f : BitVec 8) (a b : BitVec 16) : aField (packWord opc f a b) = a := by
  ext j hj
  have h8 : ¬ 16 + j < 8 := by omega
  have h : 16 + j < 32 := by omega
  simp [aField, Laws.getLsbD_packWord, h8, h, hj]

@[simp] theorem bField_packWord (opc f : BitVec 8) (a b : BitVec 16) : bField (packWord opc f a b) = b := by
  ext j hj
  have h8 : ¬ 32 + j < 8 := by omega
  have h16 : ¬ 32 + j < 16 := by omega
  have h : 32 + j < 48 := by omega
  simp [bField, Laws.getLsbD_packWord, h8, h16, h, hj]

@[simp] theorem rsvField_packWord (opc f : BitVec 8) (a b : BitVec 16) : rsvField (packWord opc f a b) = 0 := by
  ext j hj
  have h8 : ¬ 48 + j < 8 := by omega
  have h16 : ¬ 48 + j < 16 := by omega
  have h32 : ¬ 48 + j < 32 := by omega
  simp [rsvField, Laws.getLsbD_packWord, h8, h16, h32]

/-- A word whose RSV is zero is its four fields, packed. -/
theorem packWord_fields (rsv : rsvField w = 0) : packWord (opcField w) (fField w) (aField w) (bField w) = w := by
  refine Laws.word_ext fun j hj => ?_
  rw [Laws.getLsbD_packWord]
  split_ifs with h8 h16 h32 h48
  · simp [opcField, h8]
  · have : j - 8 < 8 := by omega
    simp [fField, this, Nat.add_sub_cancel' (Nat.le_of_not_lt h8)]
  · have : j - 16 < 16 := by omega
    simp [aField, this, Nat.add_sub_cancel' (Nat.le_of_not_lt h16)]
  · have : j - 32 < 16 := by omega
    simp [bField, this, Nat.add_sub_cancel' (Nat.le_of_not_lt h32)]
  · have high : j - 48 < 16 := by omega
    have zero := congrArg (BitVec.getLsbD · (j - 48)) rsv
    simpa [rsvField, high, Nat.add_sub_cancel' (Nat.le_of_not_lt h48)] using zero.symm

/-! ### Rows -/

/-- Where a row's mask has a field of ones, the words the row matches have the field of its match word. -/
theorem field_of_matches {m x : CommandWord} {lo n : Nat} (matched : w &&& m = x)
    (ones : m.extractLsb' lo n = BitVec.allOnes n) : w.extractLsb' lo n = x.extractLsb' lo n := by
  rw [← matched, BitVec.extractLsb'_and, ones, BitVec.and_allOnes]

theorem opcField_of_matches (matched : w &&& r.format.mask = r.mtch) : opcField w = opcField r.mtch :=
  field_of_matches matched (by cases r.format <;> rfl)

/-- A match word is its opcode and zeros (R78). -/
theorem packWord_mtch : ∀ r ∈ opcodeMap, packWord (opcField r.mtch) 0 0 0 = r.mtch := by
  decide

theorem fField_of_matches (row : r ∈ opcodeMap) (matched : w &&& r.format.mask = r.mtch)
    (ones : fField r.format.mask = BitVec.allOnes 8) : fField w = 0 :=
  calc fField w = fField r.mtch := field_of_matches matched ones
    _ = 0 := by rw [← packWord_mtch r row, fField_packWord]

theorem aField_of_matches (row : r ∈ opcodeMap) (matched : w &&& r.format.mask = r.mtch)
    (ones : aField r.format.mask = BitVec.allOnes 16) : aField w = 0 :=
  calc aField w = aField r.mtch := field_of_matches matched ones
    _ = 0 := by rw [← packWord_mtch r row, aField_packWord]

theorem bField_of_matches (row : r ∈ opcodeMap) (matched : w &&& r.format.mask = r.mtch)
    (ones : bField r.format.mask = BitVec.allOnes 16) : bField w = 0 :=
  calc bField w = bField r.mtch := field_of_matches matched ones
    _ = 0 := by rw [← packWord_mtch r row, bField_packWord]

theorem rsvField_of_matches (row : r ∈ opcodeMap) (matched : w &&& r.format.mask = r.mtch) : rsvField w = 0 :=
  calc rsvField w = rsvField r.mtch := field_of_matches matched (by cases r.format <;> rfl)
    _ = 0 := by rw [← packWord_mtch r row, rsvField_packWord]

/-- A word that a row matches is the row's opcode and three operand fields. -/
theorem packWord_of_matches (row : r ∈ opcodeMap) (matched : w &&& r.format.mask = r.mtch) :
    packWord (opcField r.mtch) (fField w) (aField w) (bField w) = w := by
  rw [← opcField_of_matches matched]
  exact packWord_fields (rsvField_of_matches row matched)

/-- The opcodes of the map are distinct: a row's own opcode finds the row. -/
theorem find_row : ∀ r ∈ opcodeMap, opcodeMap.find? (fun r' => opcField r'.mtch == opcField r.mtch) = some r := by
  decide

theorem rowOf_of_matches (row : r ∈ opcodeMap) (matched : w &&& r.format.mask = r.mtch) : rowOf w = some r := by
  rw [rowOf, opcField_of_matches matched]
  exact find_row r row

theorem decode_of_matches (row : r ∈ opcodeMap) (matched : w &&& r.format.mask = r.mtch) : decode w = assemble w := by
  simp only [decode, rowOf_of_matches row matched, if_pos matched]

/-- A word decodes exactly where a row matches it and its operands assemble (R79). -/
theorem decode_eq_ok_iff :
    decode w = .ok i ↔ ∃ r ∈ opcodeMap, w &&& r.format.mask = r.mtch ∧ assemble w = .ok i := by
  constructor
  · intro decoded
    unfold decode at decoded
    split at decoded
    · cases decoded
    · rename_i r found
      split at decoded
      · exact ⟨r, List.mem_of_find?_eq_some found, ‹_›, decoded⟩
      · cases decoded
  · rintro ⟨r, row, matched, assembled⟩
    exact (decode_of_matches row matched).trans assembled

end Sys2Proof
end

section
/-! PROOFS. Decode and encode agree (30_encoding.md rules R70 to R79): a command's word decodes to it, and the words of each format
carry the commands of its rows. -/

namespace Sys2Proof

variable {w : CommandWord} {r : OpRow} {i : Instr}

/-! ### The encoder -/

/-- The row of a command's mnemonic accepts its word. -/
theorem row_of_encode (i : Instr) : Laws.EncodeMatchesRow.Statement i := by
  cases i with
  | fBind base size mode => exact Laws.EncodeMatchesRow.fBind base size mode
  | fWrdata width => exact Laws.EncodeMatchesRow.fWrdata width
  | fRddata width => exact Laws.EncodeMatchesRow.fRddata width
  | fWrhdr id => exact Laws.EncodeMatchesRow.fWrhdr id
  | fIsvalid => exact Laws.EncodeMatchesRow.fIsvalid
  | fIseog => exact Laws.EncodeMatchesRow.fIseog
  | fStuff => exact Laws.EncodeMatchesRow.fStuff
  | fDestuff => exact Laws.EncodeMatchesRow.fDestuff
  | fMsgsize => exact Laws.EncodeMatchesRow.fMsgsize
  | fProcsize => exact Laws.EncodeMatchesRow.fProcsize
  | gOpenw => exact Laws.EncodeMatchesRow.gOpenw
  | gOpenr size => exact Laws.EncodeMatchesRow.gOpenr size
  | gCommit => exact Laws.EncodeMatchesRow.gCommit
  | gNext => exact Laws.EncodeMatchesRow.gNext
  | gTrailer => exact Laws.EncodeMatchesRow.gTrailer
  | gHdrvalid => exact Laws.EncodeMatchesRow.gHdrvalid
  | gCalcsize => exact Laws.EncodeMatchesRow.gCalcsize

/-- F.WRHDR keeps the low seven bits of F (R74). -/
theorem assemble_fWrhdr (f : BitVec 8) : assemble (packWord 0x04#8 f 0 0) = .ok (.fWrhdr (f.setWidth 7)) := by
  simp [assemble]

theorem assemble_encode (wf : i.wellFormed = true) : assemble (encode i) = .ok i := by
  cases i with
  | fBind base size mode => simp [encode, assemble]
  | fWrdata width | fRddata width =>
    have legal : legalWidth width = true := wf
    simp [encode, assemble, checkWidth, legal]
  | fWrhdr id => exact (assemble_fWrhdr (id.setWidth 8)).trans (by simp)
  | gOpenr size => simp [encode, assemble]
  | _ => rfl

theorem decode_encode (wf : i.wellFormed = true) : decode (encode i) = .ok i := by
  obtain ⟨r, row, -, matched⟩ := row_of_encode i
  exact (decode_of_matches row matched).trans (assemble_encode wf)

/-- Settles O3: a command's word matches the command's row, and its fields are the operands. -/
theorem decodeOfEncodeIsTheCommand : Obligations.DecodeOfEncodeIsTheCommand := fun _ => decode_encode

/-- Settles O2: each example is the word of its well-formed command. -/
theorem encodingExamplesDecode : Obligations.EncodingExamplesDecode := by
  intro p listed
  obtain ⟨word, wf⟩ : encode p.2 = p.1 ∧ p.2.wellFormed = true := by
    revert p
    decide
  exact ⟨word ▸ decode_encode wf, word⟩

/-! ### The words of each format -/

/-- A word that decodes to command i, and from which i's own word differs in the bit that F.WRHDR drops at most (R74). -/
structure Carries (w : CommandWord) (i : Instr) : Prop where
  decoded : decode w = .ok i
  wellFormed : i.wellFormed = true
  encoded : encode i = if opcField w = 0x04#8 then w &&& 0xFFFFFFFFFFFF7FFF#64 else w

/-- A command's own word carries it. -/
theorem Carries.of_encode (word : encode i = w) (wf : i.wellFormed = true) (opc : opcField w ≠ 0x04#8) : Carries w i where
  decoded := word ▸ decode_encode wf
  wellFormed := wf
  encoded := word.trans (if_neg opc).symm

/-- F.WRHDR's row matches at every F (R74). -/
theorem packWord_and_mask_h (f : BitVec 8) : packWord 0x04#8 f 0 0 &&& Format.h.mask = 0x04#64 := by
  refine Laws.word_ext fun j hj => ?_
  simp only [BitVec.getLsbD_and, Laws.getLsbD_packWord, Format.mask]
  interval_cases j <;> simp

/-- Clearing bit 15 of a word clears bit 7 of F. -/
theorem packWord_and_bit15 (f : BitVec 8) :
    packWord 0x04#8 f 0 0 &&& 0xFFFFFFFFFFFF7FFF#64 = packWord 0x04 ((f.setWidth 7).setWidth 8) 0 0 := by
  refine Laws.word_ext fun j hj => ?_
  simp only [BitVec.getLsbD_and, Laws.getLsbD_packWord]
  interval_cases j <;> simp

/-- The words of F.WRHDR carry it at every F, with bit 7 dropped from the id (R74). -/
theorem carries_fWrhdr {f : BitVec 8} (word : packWord 0x04#8 f 0 0 = w) : Carries w (.fWrhdr (f.setWidth 7)) where
  decoded := by
    subst word
    have row : (⟨"F.WRHDR", .h, 0x04#64⟩ : OpRow) ∈ opcodeMap := by decide
    exact (decode_of_matches row (packWord_and_mask_h f)).trans (assemble_fWrhdr f)
  wellFormed := rfl
  encoded := by
    subst word
    rw [opcField_packWord, if_pos rfl, packWord_and_bit15]
    rfl

/-- Every match of format N is the word of a command without operands. -/
theorem command_of_n : ∀ r ∈ opcodeMap, r.format = .n →
    ∃ i ∈ [Instr.fIsvalid, .fIseog, .fStuff, .fDestuff, .fMsgsize, .fProcsize, .gOpenw, .gCommit, .gNext, .gTrailer,
        .gHdrvalid, .gCalcsize],
      encode i = r.mtch ∧ i.wellFormed = true ∧ opcField r.mtch ≠ 0x04#8 ∧ i.mnemonic = r.mnemonic := by
  decide

theorem row_of_b : ∀ r ∈ opcodeMap, r.format = .b → r = ⟨"F.BIND", .b, 0x01#64⟩ := by decide

theorem row_of_w : ∀ r ∈ opcodeMap, r.format = .w → r = ⟨"F.WRDATA", .w, 0x02#64⟩ ∨ r = ⟨"F.RDDATA", .w, 0x03#64⟩ := by
  decide

theorem row_of_h : ∀ r ∈ opcodeMap, r.format = .h → r = ⟨"F.WRHDR", .h, 0x04#64⟩ := by decide

theorem row_of_s : ∀ r ∈ opcodeMap, r.format = .s → r = ⟨"G.OPENR", .s, 0x11#64⟩ := by decide

/-- A word that a row matches, with a legal width in format W, carries a command of the row. -/
theorem carries_of_matches (row : r ∈ opcodeMap) (matched : w &&& r.format.mask = r.mtch)
    (legal : r.format = .w → legalWidth (fField w) = true) : ∃ i, Carries w i ∧ i.mnemonic = r.mnemonic := by
  have word := packWord_of_matches row matched
  have opc := opcField_of_matches matched
  have f_zero := fField_of_matches row matched
  have a_zero := aField_of_matches row matched
  have b_zero := bField_of_matches row matched
  cases fmt : r.format with
  | n =>
    obtain ⟨i, -, encoded, wf, notWrhdr, mnemonic⟩ := command_of_n r row fmt
    have own : w = r.mtch := by rw [← matched, fmt]; exact BitVec.and_allOnes.symm
    exact ⟨i, .of_encode (encoded.trans own.symm) wf (opc ▸ notWrhdr), mnemonic⟩
  | b =>
    obtain rfl := row_of_b r row fmt
    exact ⟨.fBind (aField w) (bField w) (fField w), .of_encode word rfl (opc ▸ by decide), rfl⟩
  | w =>
    obtain rfl | rfl := row_of_w r row fmt <;> rw [a_zero rfl, b_zero rfl] at word
    · exact ⟨.fWrdata (fField w), .of_encode word (legal fmt) (opc ▸ by decide), rfl⟩
    · exact ⟨.fRddata (fField w), .of_encode word (legal fmt) (opc ▸ by decide), rfl⟩
  | h =>
    obtain rfl := row_of_h r row fmt
    rw [a_zero rfl, b_zero rfl] at word
    exact ⟨.fWrhdr ((fField w).setWidth 7), carries_fWrhdr word, rfl⟩
  | s =>
    obtain rfl := row_of_s r row fmt
    rw [f_zero rfl, b_zero rfl] at word
    exact ⟨.gOpenr (aField w), .of_encode word rfl (opc ▸ by decide), rfl⟩

theorem legalWidth_of_checkWidth {f : BitVec 8} {j : Instr} (checked : checkWidth f j = .ok i) : legalWidth f = true := by
  unfold checkWidth at checked
  split at checked
  · assumption
  · cases checked

/-- In format W assembling is the width check (R73). -/
theorem assemble_of_w (row : r ∈ opcodeMap) (fmt : r.format = .w) (opc : opcField w = opcField r.mtch) :
    ∃ j, assemble w = checkWidth (fField w) j := by
  rw [assemble, opc]
  obtain rfl | rfl := row_of_w r row fmt
  · exact ⟨.fWrdata (fField w), rfl⟩
  · exact ⟨.fRddata (fField w), rfl⟩

/-- The words that decode: a row matches, with a legal width in format W (R79). -/
theorem exists_row_of_decode (decoded : decode w = .ok i) :
    ∃ r ∈ opcodeMap, w &&& r.format.mask = r.mtch ∧ (r.format = .w → legalWidth (fField w) = true) := by
  obtain ⟨r, row, matched, assembled⟩ := decode_eq_ok_iff.mp decoded
  refine ⟨r, row, matched, fun fmt => ?_⟩
  obtain ⟨j, check⟩ := assemble_of_w row fmt (opcField_of_matches matched)
  exact legalWidth_of_checkWidth (check.symm.trans assembled)

/-- What a word decodes to, it carries. -/
theorem carries_of_decode (decoded : decode w = .ok i) : Carries w i := by
  obtain ⟨r, row, matched, legal⟩ := exists_row_of_decode decoded
  obtain ⟨j, carries, -⟩ := carries_of_matches row matched legal
  cases carries.decoded.symm.trans decoded
  exact carries

/-- Settles O4: the word's row and fields give back the word, but for the bit that F.WRHDR drops. -/
theorem encodeOfDecodeIsTheWord : Obligations.EncodeOfDecodeIsTheWord := fun _ _ decoded =>
  ⟨(carries_of_decode decoded).wellFormed, (carries_of_decode decoded).encoded⟩

/-- The widths of format W, as a list (R73). -/
theorem legalWidth_iff {f : BitVec 8} : legalWidth f = true ↔ f ∈ [1#8, 2#8, 4#8, 8#8] := by
  simp [legalWidth, or_assoc]

/-- No row has a reserved opcode (R77). -/
theorem opcode_not_reserved : ∀ r ∈ opcodeMap,
    ¬ ((opcField r.mtch).toNat = 0x00 ∨ (0x0B ≤ (opcField r.mtch).toNat ∧ (opcField r.mtch).toNat ≤ 0x0F) ∨
      0x17 ≤ (opcField r.mtch).toNat) := by
  decide

end Sys2Proof
end

section
/-! PROOFS. A word written to CMD is executed as its row's command, or is illegal (30_encoding.md rules R77 and R79). -/

namespace Sys2Proof.Machine

variable {s : State} {w : CommandWord} {rest : List Transaction}

theorem step_of_command (offered : s.inbox = .wr 0x00#8 w :: rest) : step s = issue w ((s.accept rest).setCmd w) :=
  (step_of_inbox offered).trans (hostPort_wr_cmd w _)

/-- A word that is no command writes STATUS and RESULT alone (R77). -/
theorem step_of_illegal (offered : s.inbox = .wr 0x00#8 w :: rest) (illegal : ∀ i, decode w ≠ .ok i) :
    step s = .next { s with inbox := rest, reply := .none, cmd := w, status := 1, result := 0 } := by
  cases decoded : decode w with
  | ok i => exact absurd decoded (illegal i)
  | error e => exact (step_of_command offered).trans (issue_of_error decoded _)

/-- Settles O5: the words that decode are those a row matches, with a legal width in format W. -/
theorem everyWordExecutesOrIsIllegal : Obligations.EveryWordExecutesOrIsIllegal := by
  intro s w rest offered
  refine ⟨fun r row matched width => ?_, fun noRow => step_of_illegal offered fun i decoded => noRow ?_⟩
  · obtain ⟨i, carries, mnemonic⟩ := carries_of_matches row matched fun fmt => legalWidth_iff.mpr (width fmt)
    exact ⟨i, carries.decoded, mnemonic, (step_of_command offered).trans (issue_of_decode carries.decoded _)⟩
  · obtain ⟨r, row, matched, legal⟩ := exists_row_of_decode decoded
    exact ⟨r, row, matched, fun fmt => legalWidth_iff.mp (legal fmt)⟩

/-- Settles O6: an illegal word fails the transaction, and a word with a reserved opcode has no row. -/
theorem illegalCommandChangesOnlyStatusAndResult : Obligations.IllegalCommandChangesOnlyStatusAndResult := by
  intro s w rest offered
  refine ⟨step_of_illegal offered, fun reserved i decoded => ?_⟩
  obtain ⟨r, row, matched, -⟩ := decode_eq_ok_iff.mp decoded
  exact opcode_not_reserved r row (opcField_of_matches matched ▸ reserved)

end Sys2Proof.Machine
end

section
/-! PROOFS. G.COMMIT and the chain of frames (30_encoding.md rule R83, 43_group.md rule R183): the serialized header byte by byte,
validity over the wire bytes, and what a commit does. -/

namespace Sys2Proof.Machine

variable {s t : State} {pr : Params} {m : Memory}

/-! ### The frame header on the wire -/

/-- Five bytes of a 40-bit number. -/
theorem beBytes_five (d : BitVec 40) :
    beBytes 5 d.toNat =
      [d.extractLsb' 32 8, d.extractLsb' 24 8, d.extractLsb' 16 8, d.extractLsb' 8 8, d.extractLsb' 0 8] := by
  simp [beBytes, BitVec.extractLsb', Nat.shiftRight_eq_div_pow]

/-- SerFH gives the wire form of R80. -/
theorem serFH_eq_wireFrameHeader (h : FrameHeader) : serFH h = wireFrameHeader h := by
  refine (beBytes_five h.word).trans ?_
  simp only [wireFrameHeader, List.cons.injEq, and_true]
  refine ⟨?_, ?_, ?_, ?_, ?_⟩ <;>
  · refine BitVec.eq_of_getLsbD_eq fun j hj => ?_
    simp only [FrameHeader.word, BitVec.getLsbD_extractLsb', BitVec.getLsbD_append]
    interval_cases j <;> simp

theorem frameCrc_eq_wireFrameCrc (id : BitVec 7) (len : BitVec 11) (base : Nat) :
    frameCrc pr m id len base = wireFrameCrc pr m id len base := by
  rw [frameCrc, wireFrameCrc, serFH_eq_wireFrameHeader]
  rfl

theorem frameValid_iff {h : FrameHeader} {base size : Nat} :
    frameValid pr m h base size = true ↔ ValidAt pr m h base size := by
  simp [frameValid, headerFits, ValidAt, frameCrc_eq_wireFrameCrc, and_assoc]

theorem viewValid_iff : s.viewValid = true ↔ ValidView s := frameValid_iff

/-! ### Chains -/

/-- A valid frame is valid in the bytes it occupies. -/
theorem ValidAt.own_size {h : FrameHeader} {base size : Nat} (valid : ValidAt pr m h base size) :
    ValidAt pr m h base (5 + h.len.toNat) := by
  obtain ⟨magic, -, max, crc⟩ := valid
  exact ⟨magic, Nat.le_refl _, max, crc⟩

/-- A chain followed by one more valid frame is a chain. -/
theorem FrameChain.snoc {p q n : Nat} {h : FrameHeader} (chain : FrameChain pr m p q n) (at_q : HeaderAt m q h)
    (valid : ValidAt pr m h q (5 + h.len.toNat)) (noEog : ¬ EogHeader h) :
    FrameChain pr m p (q + 5 + h.len.toNat) (n + 1) := by
  induction chain with
  | nil p => exact .cons p _ 0 h at_q valid noEog (.nil _)
  | cons p q n g at_p valid_p noEog_p _ ih => exact .cons p _ (n + 1) g at_p valid_p noEog_p (ih at_q valid)

/-! ### G.COMMIT -/

/-- The state a commit ends in (43_group.md rule R183). -/
def State.committed (s : State) : State :=
  (bindCurrent (s.grp.fc.toNat + fhSize + s.fh.len.toNat) modeWrite
    (s.setGroup { s.grp with frames := s.grp.frames + 1 })).finished .ok 1#32

@[simp] theorem State.committed_mem (s : State) : s.committed.mem = s.mem := by simp [State.committed]
@[simp] theorem State.committed_params (s : State) : s.committed.params = s.params := by simp [State.committed]

/-- STATUS is 0 after the code OK alone (60_exceptions.md rule R220). -/
theorem State.finished_status_eq_zero {st : Status} {res : BitVec 32} (h : (s.finished st res).status = 0) : st = .ok := by
  cases st with
  | ok => rfl
  | _ => exact absurd h (by simp [Status.code])

/-- A G.COMMIT that ends OK has committed a valid frame, with room for the next header. -/
theorem execGCommit_ok (h : execGCommit s = .next t) (ok : t.status = 0) :
    s.viewValid = true ∧ s.grp.fc.toNat + fhSize + s.fh.len.toNat + fhSize ≤ s.grp.size.toNat ∧ t = s.committed := by
  obtain ⟨-, rfl⟩ | ⟨-, h⟩ := whenGroup_next.mp h
  · cases State.finished_status_eq_zero ok
  replace h := (withViewValid_next.mp h).1
  split at h
  · rw [fail_next.mp h] at ok
    cases State.finished_status_eq_zero ok
  · rename_i valid
    dsimp only at h
    split at h
    · rw [fail_next.mp h] at ok
      cases State.finished_status_eq_zero ok
    · rename_i room
      exact ⟨by simpa using valid, Nat.le_of_not_lt room, finish_next.mp h⟩

/-- The frame cursor after a commit whose next header fits. -/
theorem committed_fc (room : s.grp.fc.toNat + fhSize + s.fh.len.toNat + fhSize ≤ s.grp.size.toNat) :
    s.committed.grp.fc.toNat = s.grp.fc.toNat + 5 + s.fh.len.toNat := by
  have := s.grp.size.isLt
  rw [State.committed, State.finished_grp, bindCurrent_grp, BitVec.toNat_ofNat]
  exact Nat.mod_eq_of_lt (by omega)

/-- The current frame of an open group starts at the frame cursor (10_state.md rule R37). -/
theorem Inv.base_eq_fc (h : Inv s) (opened : s.grp.mode ≠ groupNone) : s.fv.base = s.grp.fc := by
  obtain ⟨-, view, -, -⟩ := h.group
  obtain ⟨-, base, -⟩ := view opened
  exact base

/-- Settles O58: the committed frame is valid at the frame cursor, so it extends the chain. -/
theorem gCommitExtendsTheFrameChain : Obligations.GCommitExtendsTheFrameChain := by
  intro s t n inv write chain header noEog committed ok
  obtain ⟨valid, room, rfl⟩ := execGCommit_ok committed ok
  have atCursor : ValidAt s.params s.mem s.fh s.grp.fc.toNat s.fv.size.toNat := by
    rw [← inv.base_eq_fc (by rw [write]; decide)]
    exact viewValid_iff.mp valid
  rw [committed_fc room, State.committed_mem, State.committed_params]
  exact chain.snoc header atCursor.own_size noEog

end Sys2Proof.Machine
end

section
/-! PROOFS. The header serializers and deserializers as mutual inverses (40_fields_crc.md rules R102 to R105). -/

namespace Sys2Proof.Machine

/-! ### Big-endian fields -/

/-- A big-endian field of n bytes, from its highest byte down. -/
theorem beBytes_toNat {w : Nat} (d : BitVec w) (n : Nat) :
    beBytes n d.toNat = (List.range n).reverse.map fun i => d.extractLsb' (8 * i) 8 := by
  induction n with
  | zero => rfl
  | succ n ih =>
    rw [beBytes, ih, List.range_succ, List.reverse_append]
    simp [BitVec.extractLsb', Nat.shiftRight_eq_div_pow]

/-- A field read back from its big-endian bytes. -/
theorem ofNat_beNat_beBytes {n w : Nat} (d : BitVec w) (width : 256 ^ n = 2 ^ w) :
    BitVec.ofNat w (beNat (beBytes n d.toNat)) = d := by
  rw [beNat_beBytes, width, Nat.mod_eq_of_lt d.isLt, BitVec.ofNat_toNat, BitVec.setWidth_eq]

/-- The big-endian bytes of a field read from a byte sequence of its length. -/
theorem beBytes_ofNat_beNat {n w : Nat} {bs : List Byte} (length : bs.length = n) (width : 256 ^ n = 2 ^ w) :
    beBytes n (BitVec.ofNat w (beNat bs)).toNat = bs := by
  subst length
  rw [BitVec.toNat_ofNat, ← width, Nat.mod_eq_of_lt (beNat_lt bs), beBytes_beNat]

/-! ### The frame header -/

/-- DesFH cuts the fields out of the 40-bit number H where SerFH put them (R103). -/
theorem desFH_serFH (h : FrameHeader) : desFH (serFH h) = h := by
  have word : BitVec.ofNat 40 (beNat (serFH h)) = h.word := ofNat_beNat_beBytes (n := 5) h.word rfl
  have magic : h.word.extractLsb' 32 8 = h.magic := by
    rw [FrameHeader.word, BitVec.extractLsb'_append_eq_of_le (by decide), BitVec.extractLsb'_append_eq_of_le (by decide)]
    exact BitVec.extractLsb'_append_eq_left
  have id : h.word.extractLsb' 25 7 = h.id := by
    rw [FrameHeader.word, BitVec.extractLsb'_append_eq_of_le (by decide), BitVec.extractLsb'_append_eq_of_le (by decide)]
    exact BitVec.extractLsb'_append_eq_right
  have len : h.word.extractLsb' 14 11 = h.len := by
    rw [FrameHeader.word, BitVec.extractLsb'_append_eq_of_le (by decide)]
    exact BitVec.extractLsb'_append_eq_right
  have crc : h.word.extractLsb' 0 14 = h.crc := BitVec.extractLsb'_append_eq_right
  calc desFH (serFH h)
      = ⟨h.word.extractLsb' 32 8, h.word.extractLsb' 25 7, h.word.extractLsb' 14 11, h.word.extractLsb' 0 14⟩ := by
        rw [desFH, word]
    _ = h := by rw [magic, id, len, crc]

/-- The fields that DesFH cuts out of a 40-bit number make it up again (R103). -/
theorem word_desFH (bs : List Byte) : (desFH bs).word = BitVec.ofNat 40 (beNat bs) := by
  simp only [FrameHeader.word, desFH]
  rw [BitVec.extractLsb'_append_extractLsb'_eq_extractLsb' (start₂ := 32) rfl,
    BitVec.extractLsb'_append_extractLsb'_eq_extractLsb' (start₂ := 25) rfl,
    BitVec.extractLsb'_append_extractLsb'_eq_extractLsb' (start₂ := 14) rfl]
  exact BitVec.extractLsb'_eq_self

theorem serFH_desFH {bs : List Byte} (length : bs.length = 5) : serFH (desFH bs) = bs := by
  rw [serFH, word_desFH]
  exact beBytes_ofNat_beNat length rfl

/-- Settles O48: the layout, and the two round trips. -/
theorem frameHeaderSerializersAreInverse : Obligations.FrameHeaderSerializersAreInverse :=
  ⟨fun h => ⟨serFH_eq_wireFrameHeader h, desFH_serFH h⟩, fun _ => serFH_desFH⟩

/-! ### The group header -/

/-- The two bytes of Q = numFrames, headerLen (R81). -/
theorem beBytes_countWord (h : GroupHeader) :
    beBytes 2 h.countWord.toNat = [h.numFrames.extractLsb' 3 8, h.numFrames.extractLsb' 0 3 ++ h.headerLen] := by
  have high : h.countWord.extractLsb' 8 8 = h.numFrames.extractLsb' 3 8 :=
    BitVec.extractLsb'_append_eq_of_le (by decide)
  have low : h.countWord.extractLsb' 0 8 = h.numFrames.extractLsb' 0 3 ++ h.headerLen :=
    calc h.countWord.extractLsb' 0 8
        = h.countWord.extractLsb' 5 3 ++ h.countWord.extractLsb' 0 5 :=
          (BitVec.extractLsb'_append_extractLsb'_eq_extractLsb' (start₁ := 0) (len₁ := 5) (len₂ := 3) rfl).symm
      _ = h.numFrames.extractLsb' 0 3 ++ h.headerLen :=
          congrArg₂ (· ++ ·) (BitVec.extractLsb'_append_eq_of_le (by decide)) BitVec.extractLsb'_append_eq_right
  rw [beBytes_toNat, ← high, ← low]
  rfl

/-- SerGH gives the wire form of R81. -/
theorem serGH_eq_wireGroupHeader (h : GroupHeader) : serGH h = wireGroupHeader h := by
  rw [serGH, wireGroupHeader, beBytes_toNat h.tsSec, beBytes_toNat h.tsNsec, beBytes_countWord]
  rfl

/-- DesGH finds each field where SerGH put it (R105). -/
theorem desGH_serGH (h : GroupHeader) : desGH (serGH h) = h := by
  have tsSec : ((serGH h).drop 2).take 4 = beBytes 4 h.tsSec.toNat := rfl
  have tsNsec : ((serGH h).drop 6).take 4 = beBytes 4 h.tsNsec.toNat := rfl
  have count : ((serGH h).drop 10).take 2 = beBytes 2 h.countWord.toNat := rfl
  have word : BitVec.ofNat 16 (beNat (beBytes 2 h.countWord.toNat)) = h.numFrames ++ h.headerLen :=
    ofNat_beNat_beBytes h.countWord rfl
  rw [desGH, tsSec, tsNsec, count, word, ofNat_beNat_beBytes h.tsSec rfl, ofNat_beNat_beBytes h.tsNsec rfl,
    BitVec.extractLsb'_append_eq_left, BitVec.extractLsb'_append_eq_right]
  rfl

/-- The fields that DesGH cuts out of Q make it up again (R105). -/
theorem countWord_desGH (bs : List Byte) :
    (desGH bs).countWord = BitVec.ofNat 16 (beNat ((bs.drop 10).take 2)) := by
  rw [GroupHeader.countWord, desGH, BitVec.extractLsb'_append_extractLsb'_eq_extractLsb' (start₂ := 5) rfl]
  exact BitVec.extractLsb'_eq_self

/-- The byte sequences DesGH reads make up the thirteen bytes (R105). -/
theorem groupBytes_split {bs : List Byte} (length : bs.length = 13) :
    [bs.getD 0 0, bs.getD 1 0] ++ (bs.drop 2).take 4 ++ (bs.drop 6).take 4 ++ (bs.drop 10).take 2 ++ [bs.getD 12 0] = bs :=
  match bs, length with
  | [_, _, _, _, _, _, _, _, _, _, _, _, _], _ => rfl

theorem serGH_desGH {bs : List Byte} (length : bs.length = 13) : serGH (desGH bs) = bs := by
  have tsSec : beBytes 4 (desGH bs).tsSec.toNat = (bs.drop 2).take 4 :=
    beBytes_ofNat_beNat (by simp [length]) rfl
  have tsNsec : beBytes 4 (desGH bs).tsNsec.toNat = (bs.drop 6).take 4 :=
    beBytes_ofNat_beNat (by simp [length]) rfl
  have count : beBytes 2 (desGH bs).countWord.toNat = (bs.drop 10).take 2 := by
    rw [countWord_desGH]
    exact beBytes_ofNat_beNat (by simp [length]) rfl
  rw [serGH, tsSec, tsNsec, count]
  exact groupBytes_split length

/-- Settles O49: the layout, and the two round trips. -/
theorem groupHeaderSerializersAreInverse : Obligations.GroupHeaderSerializersAreInverse :=
  ⟨fun h => ⟨serGH_eq_wireGroupHeader h, desGH_serGH h⟩, fun _ => serGH_desGH⟩

end Sys2Proof.Machine
end

section
/-! PROOFS. CRC sensitivity (40_fields_crc.md rule R115): the CRC is linear, so one flipped bit of the message leaves a difference in
the register, and a polynomial that is not zero never shifts that difference out. -/

namespace Sys2Proof.Machine

variable {W : Nat} {poly r d : BitVec W} {k j : Nat}

/-! ### Linearity -/

/-- What the feedback bit t adds to the shifted register (R106). -/
def feedback (poly : BitVec W) (t : Bool) : BitVec W := if t then poly else 0

@[simp] theorem feedback_false : feedback poly false = 0 := rfl
@[simp] theorem feedback_true : feedback poly true = poly := rfl

theorem feedback_xor (poly : BitVec W) (t u : Bool) : feedback poly (t ^^ u) = feedback poly t ^^^ feedback poly u := by
  cases t <;> cases u <;> simp

theorem crcBit_eq (poly r : BitVec W) (t : Bool) : crcBit poly r t = r <<< 1 ^^^ feedback poly (t ^^ r.msb) := by
  unfold crcBit
  cases t ^^ r.msb <;> simp

theorem crcBit_xor (poly r d : BitVec W) (t u : Bool) :
    crcBit poly (r ^^^ d) (t ^^ u) = crcBit poly r t ^^^ crcBit poly d u := by
  simp only [crcBit_eq, BitVec.msb_xor, feedback_xor, BitVec.shiftLeft_xor_distrib]
  ac_rfl

theorem crcByte_xor (poly r d : BitVec W) (b c : Byte) :
    crcByte poly (r ^^^ d) (b ^^^ c) = crcByte poly r b ^^^ crcByte poly d c := by
  simp [crcByte, bitsMsbFirst, crcBit_xor]

/-! ### The difference a flipped bit leaves -/

/-- Bit k is the lowest set bit of the polynomial. -/
structure LowestTerm (poly : BitVec W) (k : Nat) : Prop where
  term : poly.getLsbD k = true
  below : ∀ i < k, poly.getLsbD i = false

theorem exists_lowestTerm (nonzero : poly ≠ 0) : ∃ k, LowestTerm poly k := by
  have bit : ∃ k, poly.getLsbD k = true := by
    by_contra none
    exact nonzero (BitVec.eq_of_getLsbD_eq fun i _ => by simpa using fun h => none ⟨i, h⟩)
  exact ⟨Nat.find bit, Nat.find_spec bit, fun i below => by simpa using Nat.find_min bit below⟩

/-- A difference of two registers that is not zero and has no bit set below bit k. -/
structure Difference (k : Nat) (d : BitVec W) : Prop where
  nonzero : d ≠ 0
  aligned : ∀ i < k, d.getLsbD i = false

theorem LowestTerm.difference (low : LowestTerm poly k) : Difference k poly where
  nonzero := by
    rintro rfl
    simpa using low.term
  aligned := low.below

/-- A shift loses only the top bit. -/
theorem shiftLeft_one_ne_zero (nonzero : d ≠ 0) (top : d.msb = false) : d <<< 1 ≠ 0 := by
  have room := BitVec.msb_eq_false_iff_two_mul_lt.mp top
  intro zero
  have value := congrArg BitVec.toNat zero
  rw [BitVec.toNat_shiftLeft, Nat.shiftLeft_eq, Nat.mod_eq_of_lt (by omega)] at value
  exact nonzero (BitVec.eq_of_toNat_eq (by simpa using value))

theorem Difference.getLsbD_shiftLeft (h : Difference k d) {i : Nat} (le : i ≤ k) : (d <<< 1).getLsbD i = false := by
  cases i with
  | zero => simp
  | succ i => simp [BitVec.getLsbD_shiftLeft, h.aligned i le]

/-- A shift that loses the top bit brings the polynomial in, with bit k where the shifted difference has none. -/
theorem Difference.crcBit (low : LowestTerm poly k) (h : Difference k d) : Difference k (crcBit poly d false) := by
  rw [crcBit_eq, Bool.false_xor]
  cases top : d.msb with
  | false =>
    rw [feedback_false, BitVec.ofNat_eq_ofNat, BitVec.xor_zero]
    exact ⟨shiftLeft_one_ne_zero h.nonzero top, fun i lt => h.getLsbD_shiftLeft (by omega)⟩
  | true =>
    rw [feedback_true]
    refine ⟨fun zero => ?_, fun i lt => ?_⟩
    · have bit : (d <<< 1 ^^^ poly).getLsbD k = true := by
        rw [BitVec.getLsbD_xor, h.getLsbD_shiftLeft (Nat.le_refl k), low.term, Bool.false_xor]
      simp [zero] at bit
    · rw [BitVec.getLsbD_xor, h.getLsbD_shiftLeft (by omega), low.below i lt, Bool.false_xor]

/-- A difference outlives any number of unchanged message bits. -/
theorem Difference.zeros (low : LowestTerm poly k) (n : Nat) :
    ∀ {d : BitVec W}, Difference k d → Difference k ((List.replicate n false).foldl (Machine.crcBit poly) d) := by
  induction n with
  | zero => exact id
  | succ n ih => exact fun h => ih (h.crcBit low)

/-- An unchanged message byte. -/
theorem Difference.crcByte (low : LowestTerm poly k) (h : Difference k d) : Difference k (crcByte poly d 0) :=
  h.zeros low 8

theorem crcBit_zero_false : crcBit poly 0 false = 0 := by simp [crcBit_eq]

theorem crcBit_zero_true : crcBit poly 0 true = poly := by simp [crcBit_eq]

theorem foldl_zeros (poly : BitVec W) (n : Nat) : (List.replicate n false).foldl (crcBit poly) 0 = 0 := by
  induction n with
  | zero => rfl
  | succ n ih => rwa [List.replicate_succ, List.foldl_cons, crcBit_zero_false]

/-- One set bit, in the order of R106. -/
theorem bitsMsbFirst_bit :
    ∀ j < 8, bitsMsbFirst (1#8 <<< j) = List.replicate (7 - j) false ++ true :: List.replicate j false := by
  decide

/-- The message byte with the flipped bit. -/
theorem difference_of_bit (low : LowestTerm poly k) (lt : j < 8) : Difference k (crcByte poly 0 (1#8 <<< j)) := by
  rw [crcByte, bitsMsbFirst_bit j lt, List.foldl_append, foldl_zeros, List.foldl_cons, crcBit_zero_true]
  exact low.difference.zeros low j

/-! ### Messages -/

/-- Registers that differ stay apart over the same message. -/
theorem Difference.crc_ne (low : LowestTerm poly k) (data : List Byte) :
    ∀ {r d : BitVec W}, Difference k d → crc poly data (r ^^^ d) ≠ crc poly data r := by
  induction data with
  | nil => exact fun h same => h.nonzero (by simpa [crc] using same)
  | cons b data ih =>
    intro r d h
    have step : Machine.crcByte poly (r ^^^ d) b = Machine.crcByte poly r b ^^^ Machine.crcByte poly d 0 := by
      simpa using crcByte_xor poly r d b 0
    rw [crc, List.foldl_cons, step]
    exact ih (h.crcByte low)

/-- A CRC detects one flipped bit (R115). -/
theorem crc_ne_of_flip (nonzero : poly ≠ 0) (lt : j < 8) (pre post : List Byte) (b : Byte) (init : BitVec W) :
    crc poly (pre ++ (b ^^^ 1#8 <<< j) :: post) init ≠ crc poly (pre ++ b :: post) init := by
  obtain ⟨k, low⟩ := exists_lowestTerm nonzero
  have step (r : BitVec W) : crcByte poly r (b ^^^ 1#8 <<< j) = crcByte poly r b ^^^ crcByte poly 0 (1#8 <<< j) := by
    simpa using crcByte_xor poly r 0 b (1#8 <<< j)
  simp only [crc, List.foldl_append, List.foldl_cons, step]
  exact (difference_of_bit low lt).crc_ne low post

/-! ### Frames -/

variable {s : State} {m : Memory} {pr : Params}

/-- A byte sequence read in two parts. -/
theorem Memory.readBytes_add (m : Memory) (n : Nat) :
    ∀ i p, m.readBytes p (i + n) = m.readBytes p i ++ m.readBytes (p + i) n := by
  intro i
  induction i with
  | zero => simp [Memory.readBytes]
  | succ i ih =>
    intro p
    rw [Nat.succ_add, Memory.readBytes, Memory.readBytes, ih, List.cons_append, Nat.add_assoc, Nat.add_comm 1]

/-- A byte sequence is what comes before one of its addresses, the byte there, and what comes after. -/
theorem Memory.readBytes_split (m : Memory) (p i n : Nat) :
    m.readBytes p (i + (n + 1)) = m.readBytes p i ++ m.readByte (p + i) :: m.readBytes (p + i + 1) n :=
  m.readBytes_add (n + 1) i p

theorem readBytes_writeByte_outside (wf : m.wf = true) {a p n : Nat} {v : Byte} (outside : a < p ∨ p + n ≤ a) :
    (m.writeByte a v).readBytes p n = m.readBytes p n :=
  Memory.readBytes_congr n p fun x lower upper => by
    rw [Memory.readByte_writeByte wf, if_neg (by omega)]

theorem wireFrameCrc_ne_of_payload_flip (nonzero : pr.frameCrcPoly ≠ 0) (wf : m.wf = true) (id : BitVec 7)
    {len : BitVec 11} {base a : Nat} (lower : base + 5 ≤ a) (upper : a < base + 5 + len.toNat) (inside : a < memSize)
    (lt : j < 8) :
    wireFrameCrc pr (m.writeByte a (m.readByte a ^^^ 1#8 <<< j)) id len base ≠ wireFrameCrc pr m id len base := by
  obtain ⟨i, rfl⟩ := Nat.exists_eq_add_of_le lower
  obtain ⟨n, length⟩ : ∃ n, len.toNat = i + (n + 1) := ⟨len.toNat - i - 1, by omega⟩
  have here : (m.writeByte (base + 5 + i) (m.readByte (base + 5 + i) ^^^ 1#8 <<< j)).readByte (base + 5 + i) =
      m.readByte (base + 5 + i) ^^^ 1#8 <<< j := by
    rw [Memory.readByte_writeByte wf, if_pos ⟨rfl, inside⟩]
  rw [wireFrameCrc, wireFrameCrc, length, Memory.readBytes_split, Memory.readBytes_split, here,
    readBytes_writeByte_outside wf (.inr (Nat.le_refl _)), readBytes_writeByte_outside wf (.inl (by omega)),
    ← List.append_assoc, ← List.append_assoc]
  exact crc_ne_of_flip nonzero lt _ _ _ _

/-- The id is bits 7 to 1 of the second header byte (30_encoding.md rule R80). -/
theorem flip_append_one (x : BitVec 7) (y : BitVec 1) (lt : j < 7) :
    (x ^^^ 1#7 <<< j) ++ y = (x ++ y) ^^^ 1#8 <<< (j + 1) := by
  have bit : ∀ j < 7, 1#8 <<< (j + 1) = 1#7 <<< j ++ 0#1 := by decide
  rw [bit j lt]
  simpa using (BitVec.xor_append (x₁ := x) (x₂ := 1#7 <<< j) (y₁ := y) (y₂ := 0#1)).symm

theorem wireFrameCrc_ne_of_id_flip (nonzero : pr.frameCrcPoly ≠ 0) (m : Memory) (id : BitVec 7) (len : BitVec 11)
    (base : Nat) (lt : j < 7) :
    wireFrameCrc pr m (id ^^^ 1#7 <<< j) len base ≠ wireFrameCrc pr m id len base := by
  simp only [wireFrameCrc, wireFrameHeader, flip_append_one _ _ lt]
  exact crc_ne_of_flip nonzero (by omega) [_] _ _ _

/-- A flipped bit changes a field. -/
theorem flip_ne {w : Nat} (x : BitVec w) (lt : j < w) : x ^^^ 1#w <<< j ≠ x := by
  intro same
  have bit := congrArg (·.getLsbD j) same
  simp [lt] at bit

/-- Settles O53: the CRC term fails for a flip in the payload, the id or the crc, and the magic term for one in the magic. -/
theorem singleBitFlipsAreDetected : Obligations.SingleBitFlipsAreDetected := by
  intro s inv bound nonzero valid
  have inside := inv.le_of_covers bound (covers_declaredPayload (viewValid_iff.mpr valid))
  obtain ⟨magic, -, -, crc⟩ := valid
  refine ⟨fun a j lower upper lt => ?_, fun j lt => ?_, fun j lt => ?_, fun j lt => ?_⟩
  · rintro ⟨-, -, -, crc'⟩
    exact wireFrameCrc_ne_of_payload_flip nonzero inv.mem s.fh.id lower upper (by omega) lt (crc'.trans crc.symm)
  · rintro ⟨magic', -⟩
    exact flip_ne s.fh.magic lt (magic'.trans magic.symm)
  · rintro ⟨-, -, -, crc'⟩
    exact wireFrameCrc_ne_of_id_flip nonzero s.mem s.fh.id s.fh.len s.fv.base.toNat lt (crc'.trans crc.symm)
  · rintro ⟨-, -, -, crc'⟩
    exact flip_ne s.fh.crc lt (crc'.symm.trans crc)

end Sys2Proof.Machine
end

section
/-! SUPPORT. The frame commands with their checks met, one equation each: the state a bind, a store and a header finalization end
in, and a query's answer (41_frame.md rules R132 to R139). -/

namespace Sys2Proof.Machine

variable {s : State}

/-! ### F.BIND -/

/-- The modes of 30_encoding.md rule R72, as numbers. -/
theorem mem_modes_iff {mode : BitVec 8} : mode ∈ [1#8, 2#8, 3#8] ↔ mode.toNat = 1 ∨ mode.toNat = 2 ∨ mode.toNat = 3 := by
  simp [← BitVec.toNat_inj]

/-- The construction checks as the operands meet them (41_frame.md rule R132). -/
theorem bindArgsOk_iff_operands {base size : BitVec 16} {mode : BitVec 8} :
    bindArgsOk base.toNat size.toNat mode.toNat = true ↔
      mode ∈ [1#8, 2#8, 3#8] ∧ 5 ≤ size.toNat ∧ size.toNat ≤ 2052 ∧ base.toNat + size.toNat ≤ 65535 := by
  rw [bindArgsOk_iff, mem_modes_iff]

/-- The state in which F.BIND ends with legal operands. -/
def State.rebound (base size : BitVec 16) (mode : BitVec 8) (s : State) : State :=
  (bindView base.toNat size.toNat (mode.setWidth 2) (s.setGroup { s.grp with mode := groupNone })).finished .ok 1#32

theorem execFBind_of_args {base size : BitVec 16} {mode : BitVec 8}
    (args : bindArgsOk base.toNat size.toNat mode.toNat = true) :
    execFBind base size mode s = .next (s.rebound base size mode) := if_pos args

theorem execFBind_of_not_args {base size : BitVec 16} {mode : BitVec 8}
    (args : ¬ bindArgsOk base.toNat size.toNat mode.toNat = true) :
    execFBind base size mode s = fail .errConstruct s := if_neg args

/-- The operands pass into the view's registers as they are. -/
theorem State.rebound_fv (base size : BitVec 16) (mode : BitVec 8) :
    (s.rebound base size mode).fv =
      { bound := 1, mode := mode.setWidth 2, base := base, size := size.setWidth 12, cursor := 0 } := by
  simp [State.rebound]

theorem State.rebound_fh_of_write (base size : BitVec 16) : (s.rebound base size 2#8).fh = FrameHeader.zero := rfl

theorem State.rebound_fh_of_read {base size : BitVec 16} {mode : BitVec 8} (read : mode.setWidth 2 ≠ modeWrite) :
    (s.rebound base size mode).fh = desFH (s.mem.readBytes base.toNat fhSize) := if_neg read

/-! ### The cached header and the header bytes -/

/-- What DesFH reads from five bytes of M has those bytes as its wire form (40_fields_crc.md rule R103). -/
theorem headerAt_desFH (m : Memory) (p : Nat) : HeaderAt m p (desFH (m.readBytes p fhSize)) := by
  rw [HeaderAt, ← serFH_eq_wireFrameHeader]
  exact serFH_desFH (Memory.length_readBytes m 5 p)

/-- The five bytes stand for one header. -/
theorem HeaderAt.unique {m : Memory} {p : Nat} {g h : FrameHeader} (at_g : HeaderAt m p g) (at_h : HeaderAt m p h) :
    g = h := by
  have same : serFH g = serFH h := by
    rw [serFH_eq_wireFrameHeader, serFH_eq_wireFrameHeader]
    exact at_g.trans at_h.symm
  rw [← desFH_serFH g, same, desFH_serFH]

/-! ### F.WRDATA -/

/-- The state in which F.WRDATA ends in a writable view with room. -/
def State.stored (width : BitVec 8) (s : State) : State :=
  ((s.setMem (s.mem.writeBytes s.cursorAddr (beBytes width.toNat s.dataIn.toNat))).setCursor
    (s.fv.cursor.toNat + width.toNat)).finished .ok 1#32

/-- A cursor moved within the view's room loses nothing to its 12 bits (10_state.md rule R32). -/
theorem toNat_cursor_of_room {n : Nat} (room : s.hasRoom n = true) :
    (BitVec.ofNat 12 (s.fv.cursor.toNat + n)).toNat = s.fv.cursor.toNat + n := by
  have room := hasRoom_iff.mp room
  have size := s.fv.size.isLt
  exact Nat.mod_eq_of_lt (by omega)

/-! ### F.WRHDR -/

/-- The state in which F.WRHDR ends in a bound view. -/
def State.finalized (id : BitVec 7) (s : State) : State :=
  ((s.setFh (finalHeader id s)).setMem (s.mem.writeBytes s.fv.base.toNat (serFH (finalHeader id s)))).finished .ok 1#32

/-- The cursor of a bound view is a payload length (10_state.md rules R32 and R33). -/
theorem Inv.cursor_le (h : Inv s) (bound : s.fv.bound = 1#1) : s.fv.cursor.toNat ≤ maxPayload := by
  obtain ⟨-, -, maxSize, -, cursor⟩ := h.view bound
  simp only [maxPayload]
  omega

theorem Inv.execFWrhdr (h : Inv s) (bound : s.fv.bound = 1#1) (id : BitVec 7) :
    execFWrhdr id s = .next (s.finalized id) := by
  rw [Machine.execFWrhdr, whenBound_of_bound bound, if_neg (Nat.not_lt_of_le (h.cursor_le bound))]
  exact access_of_le (h.le_of_covers bound (h.covers_written bound))

theorem Inv.finalHeader_len (h : Inv s) (bound : s.fv.bound = 1#1) (id : BitVec 7) :
    (finalHeader id s).len.toNat = s.fv.cursor.toNat := by
  have cursor := h.cursor_le bound
  exact (BitVec.toNat_setWidth ..).trans (Nat.mod_eq_of_lt (by simp only [maxPayload] at cursor; omega))

/-- The header bytes lie inside M. -/
theorem Inv.header_le (h : Inv s) (bound : s.fv.bound = 1#1) : s.fv.base.toNat + 5 ≤ memSize :=
  h.le_of_covers bound ((h.covers_written bound).shorter (Nat.le_add_right fhSize _))

/-- After F.WRHDR the header bytes in M are the cached header's. -/
theorem Inv.headerAt_finalized (h : Inv s) (bound : s.fv.bound = 1#1) (id : BitVec 7) :
    HeaderAt (s.finalized id).mem s.fv.base.toNat (s.finalized id).fh := by
  have length : (serFH (finalHeader id s)).length = 5 := length_serFH _
  have inside : s.fv.base.toNat + (serFH (finalHeader id s)).length ≤ memSize := length ▸ h.header_le bound
  have read := Memory.readBytes_writeBytes h.mem inside
  rw [length] at read
  exact (serFH_eq_wireFrameHeader _).symm.trans read.symm

/-- F.WRHDR leaves the payload in M. -/
theorem Inv.readBytes_finalized (h : Inv s) (bound : s.fv.bound = 1#1) (id : BitVec 7) (n : Nat) :
    (s.finalized id).mem.readBytes s.payloadBase n = s.mem.readBytes s.payloadBase n :=
  Memory.readBytes_congr n _ fun x lower _ =>
    Memory.readByte_writeBytes_outside h.mem (by simpa using h.header_le bound)
      (.inr (by simpa [State.payloadBase] using lower))

/-- A frame's CRC reads M in the payload only (40_fields_crc.md rule R107). -/
theorem frameCrc_congr {pr : Params} {m m' : Memory} {id : BitVec 7} {len : BitVec 11} {base : Nat}
    (payload : m'.readBytes (base + fhSize) len.toNat = m.readBytes (base + fhSize) len.toNat) :
    frameCrc pr m' id len base = frameCrc pr m id len base := by
  rw [frameCrc, frameCrc, payload]

/-- F.WRHDR's CRC is over the payload it leaves, and its length is the cursor's, which the view holds (41_frame.md rule R135). -/
theorem Inv.validView_finalized (h : Inv s) (bound : s.fv.bound = 1#1) (id : BitVec 7) : ValidView (s.finalized id) := by
  obtain ⟨-, -, maxSize, -, cursor⟩ := h.view bound
  have length : (s.finalized id).fh.len.toNat = s.fv.cursor.toNat := h.finalHeader_len bound id
  have fits : 5 + (s.finalized id).fh.len.toNat ≤ s.fv.size.toNat := by omega
  refine ⟨rfl, fits, fits.trans maxSize, ?_⟩
  rw [← frameCrc_eq_wireFrameCrc]
  exact frameCrc_congr (h.readBytes_finalized bound id _)

/-! ### Queries -/

theorem execFIsvalid_of_view (bound : s.fv.bound = 1#1) (inside : s.fv.base.toNat + s.fv.size.toNat ≤ memSize) :
    execFIsvalid s = finish .ok (boolResult s.viewValid) s := by
  rw [execFIsvalid, whenBound_of_bound bound, withViewValid_of_view inside]

theorem execFMsgsize_of_view (bound : s.fv.bound = 1#1) (inside : s.fv.base.toNat + s.fv.size.toNat ≤ memSize) :
    execFMsgsize s = finish .ok (natResult (if s.viewValid then fhSize + s.fh.len.toNat else 0)) s := by
  rw [execFMsgsize, whenBound_of_bound bound, withViewValid_of_view inside]

/-- A predicate's value in RESULT (10_state.md rule R41). -/
theorem boolResult_of_iff {b : Bool} {p : Prop} (h : b = true ↔ p) : (p → boolResult b = 1) ∧ (¬ p → boolResult b = 0) := by
  constructor
  · intro holds
    rw [h.mpr holds]
    rfl
  · intro fails
    rw [Bool.eq_false_iff.mpr fun e => fails (h.mp e)]
    rfl

/-- A size in RESULT loses nothing to its 32 bits (10_state.md rule R26). -/
theorem toNat_natResult {n : Nat} (h : n < 2 ^ 32) : (natResult n).toNat = n := Nat.mod_eq_of_lt h

end Sys2Proof.Machine
end

section
/-! PROOFS. What F.BIND, the payload accesses, F.WRHDR and the queries do (41_frame.md rules R130 to R139). -/

namespace Sys2Proof.Machine

variable {s t : State}

/-! ### Binding -/

/-- The low two bits tell mode Write from the other two legal modes. -/
theorem setWidth_mode_ne_write {mode : BitVec 8} (legal : mode ∈ [1#8, 2#8, 3#8]) (read : mode ≠ 2#8) :
    mode.setWidth 2 ≠ modeWrite := by
  revert mode
  decide

/-- Settles O25: the state the bind ends in, and its cached header in each mode. -/
theorem fBindBindsTheView : Obligations.FBindBindsTheView := by
  intro s base size mode legal minSize maxSize range
  refine ⟨s.rebound base size mode, execFBind_of_args (bindArgsOk_iff_operands.mpr ⟨legal, minSize, maxSize, range⟩),
    ?_, fun write => ?_, fun read => ?_⟩
  · rw [← State.rebound_fv (s := s)]
    rfl
  · subst write
    exact State.rebound_fh_of_write base size
  · rw [State.rebound_fh_of_read (setWidth_mode_ne_write legal read)]
    exact headerAt_desFH s.mem base.toNat

/-- Settles O26: either construction check fails its command. -/
theorem constructionErrors : Obligations.ConstructionErrors := by
  intro s
  refine ⟨fun base size mode bad => ?_, fun size small => if_pos (.inl small)⟩
  refine execFBind_of_not_args fun args => ?_
  obtain ⟨legal, minSize, maxSize, range⟩ := bindArgsOk_iff_operands.mp args
  rcases bad with mode | small | large | outside
  · exact mode legal
  · omega
  · omega
  · omega

/-! ### Payload bytes -/

/-- Byte j of the n-byte big-endian sequence of a bit vector, as its bits. -/
theorem getD_beBytes_toNat {w : Nat} (d : BitVec w) {n j : Nat} (h : j < n) :
    (beBytes n d.toNat).getD j 0 = d.extractLsb' (8 * (n - 1 - j)) 8 := by
  rw [getD_beBytes n _ j h, BitVec.extractLsb', Nat.shiftRight_eq_div_pow]

/-- Bits of a big-endian number: byte j from its end, and zero past its first byte. -/
theorem extractLsb'_ofNat_beNat (bs : List Byte) {j : Nat} (h : j < 8) :
    (BitVec.ofNat 64 (beNat bs)).extractLsb' (8 * j) 8 =
      if j < bs.length then bs.getD (bs.length - 1 - j) 0 else 0 := by
  have bits : (BitVec.ofNat 64 (beNat bs)).extractLsb' (8 * j) 8 = BitVec.ofNat 8 (beNat bs / 2 ^ (8 * j)) := by
    refine BitVec.eq_of_getLsbD_eq fun i hi => ?_
    have inside : 8 * j + i < 64 := by omega
    rw [BitVec.getLsbD_extractLsb', BitVec.getLsbD_ofNat, BitVec.getLsbD_ofNat, Nat.testBit_div_two_pow, Nat.add_comm i]
    simp [hi, inside]
  rw [bits]
  split
  · have index : bs.length - 1 - (bs.length - 1 - j) = j := by omega
    have byte := getD_beBytes bs.length (beNat bs) (bs.length - 1 - j) (by omega)
    rw [beBytes_beNat, index] at byte
    exact byte.symm
  · have small : beNat bs < 2 ^ (8 * j) :=
      calc beNat bs < 256 ^ bs.length := beNat_lt bs
        _ = 2 ^ (8 * bs.length) := by rw [pow_mul]; norm_num
        _ ≤ 2 ^ (8 * j) := Nat.pow_le_pow_right (by decide) (by omega)
    rw [Nat.div_eq_of_lt small]
    rfl

theorem canWrite_of_mode (h : s.fv.mode ∈ [2#2, 3#2]) : s.canWrite = true := by
  have write : ∀ mode ∈ [2#2, 3#2], (mode &&& 2#2 != 0#2) = true := by decide
  exact write _ h

theorem canRead_of_mode (h : s.fv.mode ∈ [1#2, 3#2]) : s.canRead = true := by
  have read : ∀ mode ∈ [1#2, 3#2], (mode &&& 1#2 != 0#2) = true := by decide
  exact read _ h

/-- Settles O27: the store, read back byte by byte. -/
theorem fWrdataStoresBigEndian : Obligations.FWrdataStoresBigEndian := by
  intro s w inv _ bound mode fits
  have room : s.hasRoom w.toNat = true := hasRoom_iff.mpr fits
  have inside := inv.le_of_covers bound (covers_access room)
  refine ⟨s.stored w, execFWrdata_of_room bound (canWrite_of_mode mode) room inside, rfl, toNat_cursor_of_room room,
    fun a => ?_⟩
  have length : (beBytes w.toNat s.dataIn.toNat).length = w.toNat := length_beBytes ..
  have written := Memory.readByte_writeBytes (beBytes w.toNat s.dataIn.toNat) inv.mem s.cursorAddr a (length.symm ▸ inside)
  rw [length] at written
  refine written.trans (if_ctx_congr Iff.rfl (fun range => ?_) fun _ => rfl)
  rw [getD_beBytes_toNat s.dataIn (by omega)]
  congr 2
  omega

/-- Settles O28: the loaded number's bytes are those of M. -/
theorem fRddataLoadsBigEndian : Obligations.FRddataLoadsBigEndian := by
  intro s w inv _ bound mode fits
  have readable : Readable s w.toNat := ⟨bound, canRead_of_mode mode, hasRoom_iff.mpr fits, inv.view_le bound⟩
  refine ⟨s.loaded w, readable.execFRddata, rfl, readable.cursor_loaded, fun j lt => ?_⟩
  refine (extractLsb'_ofNat_beNat _ lt).trans ?_
  rw [Memory.length_readBytes]
  refine if_ctx_congr Iff.rfl (fun within => ?_) fun _ => rfl
  exact Memory.getD_readBytes s.mem w.toNat s.cursorAddr _ (by omega)

/-! ### The frame header -/

/-- Settles O30: the finalized header, and its five bytes in M. -/
theorem fWrhdrFinalizesTheHeader : Obligations.FWrhdrFinalizesTheHeader := by
  intro s id inv bound
  refine ⟨s.finalized id, inv.execFWrhdr bound id, ?_, inv.finalHeader_len bound id, fun a => ?_⟩
  · rw [← frameCrc_eq_wireFrameCrc]
    rfl
  · have length : (serFH (finalHeader id s)).length = 5 := length_serFH _
    have written := Memory.readByte_writeBytes (serFH (finalHeader id s)) inv.mem s.fv.base.toNat a
      (length.symm ▸ inv.header_le bound)
    rw [length, serFH_eq_wireFrameHeader] at written
    rw [State.finalized, State.finished_mem, State.setMem_mem, serFH_eq_wireFrameHeader]
    exact written

/-! ### Queries -/

/-- A frame command but F.BIND fails while nothing is bound (41_frame.md rule R131). -/
theorem exec_of_unbound {i : Instr} (checks : checksBound i = true) (unbound : s.fv.bound = 0#1) :
    exec i s = .next { s with status := 5, result := 0 } :=
  (afterResetFrameAndGroupCommandsFail s i).1 unbound checks

/-- Settles O31: RESULT is Valid(FV). -/
theorem fIsvalidAnswersValidity : Obligations.FIsvalidAnswersValidity := fun s =>
  ⟨exec_of_unbound rfl, fun inv bound =>
    ⟨boolResult s.viewValid, execFIsvalid_of_view bound (inv.view_le bound), boolResult_of_iff viewValid_iff⟩⟩

theorem isEog_iff {h : FrameHeader} : isEog h = true ↔ EogHeader h := by
  simp [isEog, EogHeader, and_assoc]

/-- Settles O32: RESULT is EOG(FH). -/
theorem fIseogAnswersSentinel : Obligations.FIseogAnswersSentinel := fun s =>
  ⟨exec_of_unbound rfl, fun bound =>
    ⟨boolResult (isEog s.fh), whenBound_of_bound bound, boolResult_of_iff isEog_iff⟩⟩

/-- MsgSize (40_fields_crc.md rule R111) of a valid frame, in F.MSGSIZE's RESULT. -/
theorem execFMsgsize_of_valid (bound : s.fv.bound = 1#1) (inside : s.fv.base.toNat + s.fv.size.toNat ≤ memSize)
    (valid : ValidView s) : execFMsgsize s = finish .ok (natResult (5 + s.fh.len.toNat)) s := by
  rw [execFMsgsize_of_view bound inside, if_pos (viewValid_iff.mpr valid)]

theorem execFMsgsize_of_invalid (bound : s.fv.bound = 1#1) (inside : s.fv.base.toNat + s.fv.size.toNat ≤ memSize)
    (invalid : ¬ ValidView s) : execFMsgsize s = finish .ok 0#32 s := by
  rw [execFMsgsize_of_view bound inside, if_neg fun e => invalid (viewValid_iff.mp e)]
  rfl

theorem execFIsvalid_of_valid (bound : s.fv.bound = 1#1) (inside : s.fv.base.toNat + s.fv.size.toNat ≤ memSize)
    (valid : ValidView s) : execFIsvalid s = finish .ok 1#32 s := by
  rw [execFIsvalid_of_view bound inside, viewValid_iff.mpr valid]
  rfl

/-- Settles O33: the two cases of MsgSize. -/
theorem fMsgsizeAnswersSize : Obligations.FMsgsizeAnswersSize := by
  intro s
  refine ⟨exec_of_unbound rfl, fun inv bound => ?_⟩
  by_cases valid : ValidView s
  · have len := s.fh.len.isLt
    exact ⟨natResult (5 + s.fh.len.toNat), execFMsgsize_of_valid bound (inv.view_le bound) valid,
      fun _ => toNat_natResult (by omega), fun invalid => absurd valid invalid⟩
  · exact ⟨0#32, execFMsgsize_of_invalid bound (inv.view_le bound) valid, fun valid' => absurd valid' valid,
      fun _ => rfl⟩

/-- Settles O34: the answer takes the cursor alone. -/
theorem fProcsizeAnswersCursor : Obligations.FProcsizeAnswersCursor := by
  intro s
  refine ⟨exec_of_unbound rfl, fun bound => ⟨_, whenBound_of_bound bound, toNat_natResult ?_⟩⟩
  have cursor := s.fv.cursor.isLt
  simp only [fhSize]
  omega

/-- Settles O51: the finalized frame is valid, and its length is the cursor. -/
theorem fWrhdrMakesTheFrameValid : Obligations.FWrhdrMakesTheFrameValid := by
  intro s t id inv bound ht
  obtain rfl : s.finalized id = t := by injection (inv.execFWrhdr bound id).symm.trans ht
  have valid := inv.validView_finalized bound id
  refine ⟨execFIsvalid_of_valid bound (inv.view_le bound) valid, ?_⟩
  rw [← inv.finalHeader_len bound id]
  exact execFMsgsize_of_valid bound (inv.view_le bound) valid

end Sys2Proof.Machine
end

section
/-! PROOFS. The frame state machine (41_frame.md rule R140): what the ways a command can end do to FV_BOUND. -/

namespace Sys2Proof.Machine

variable {s t : State} {i : Instr}

/-- FV_BOUND stays, or a bind sets it: one that ends OK, or G.NEXT at the sentinel. -/
theorem Ends.bound_cases (h : Ends s i t) :
    t.fv.bound = s.fv.bound ∨
      (t.fv.bound = 1#1 ∧ bindsView i = true ∧ (t.status = 0 ∨ (i = .gNext ∧ t.status = 7))) := by
  cases h with
  | fBind | gOpenw | gOpenr | gCommit | gNextFrame => exact .inr ⟨rfl, rfl, .inl rfl⟩
  | gNextSentinel => exact .inr ⟨rfl, rfl, .inr ⟨rfl, rfl⟩⟩
  | _ => exact .inl rfl

/-- A bound view stays bound. -/
theorem Ends.keeps_bound (h : Ends s i t) (bound : s.fv.bound = 1#1) : t.fv.bound = 1#1 := by
  obtain same | ⟨binds, -⟩ := h.bound_cases
  · exact same.trans bound
  · exact binds

theorem bindsView_of_checksBound (checks : checksBound i = true) : bindsView i = false := by
  cases i with
  | fBind | gOpenw | gOpenr | gCommit | gNext | gTrailer | gHdrvalid | gCalcsize => cases checks
  | _ => rfl

/-- A word written to CMD keeps a bound view bound: it runs a command or fails. -/
theorem issue_keeps_bound {w : CommandWord} (ht : issue w s = .next t) (bound : s.fv.bound = 1#1) : t.fv.bound = 1#1 := by
  cases decoded : decode w with
  | ok i => exact (exec_ends (issue_of_decode decoded s ▸ ht)).keeps_bound bound
  | error e =>
    rw [issue_of_error decoded, fail_next] at ht
    exact ht ▸ bound

/-- Of the host's transactions only reset unbinds the view. -/
theorem hostPort_keeps_bound {x : Transaction} (notReset : x ≠ .reset) (ht : hostPort x s = .next t)
    (bound : s.fv.bound = 1#1) : t.fv.bound = 1#1 := by
  cases x with
  | rd | memRd =>
    cases ht
    exact bound
  | wr num v =>
    by_cases cmd : num = 0x00#8
    · subst cmd
      exact issue_keeps_bound (s := s.setCmd v) ht bound
    · rw [hostPort_wr_data cmd] at ht
      cases ht
      rwa [writeReg_frame]
  | memWr a bs =>
    cases ht
    rwa [hostMemWrite_frame]
  | reset => exact absurd rfl notReset

/-- Settles O18: over the ways a command can end, and over the host's transactions. -/
theorem frameStateMachine : Obligations.FrameStateMachine := by
  refine ⟨fun s t x rest offered notReset ht bound => ?_, fun s t i ht => ?_⟩
  · rw [step_of_inbox offered] at ht
    exact hostPort_keeps_bound (s := s.accept rest) notReset ht bound
  · have h := exec_ends ht
    refine ⟨fun unbound bound => ?_, h.keeps_bound, fun checks => ?_⟩
    · obtain same | ⟨-, binds⟩ := h.bound_cases
      · exact absurd (unbound.symm.trans (same.symm.trans bound)) (by decide)
      · exact binds
    · rw [h.fv_eq (bindsView_of_checksBound checks)]
      exact ⟨rfl, rfl, rfl, rfl⟩

end Sys2Proof.Machine
end

section
/-! PROOFS. The round-trip law (41_frame.md rule R141): a run of F.WRDATA commands stores one byte sequence in the payload, F.WRHDR
leaves it there under a valid header, and a run of F.RDDATA commands of the same widths takes it apart again. -/

namespace Sys2Proof.Machine

variable {s t u v : State} {width : BitVec 8} {xs : List (BitVec 8 × BitVec 64)}

/-! ### The byte sequence -/

/-- The payload bytes of values of given widths, in order. -/
def valueBytes (xs : List (BitVec 8 × BitVec 64)) : List Byte := xs.flatMap fun x => beBytes x.1.toNat x.2.toNat

theorem valueBytes_cons (x : BitVec 8 × BitVec 64) (xs : List (BitVec 8 × BitVec 64)) :
    valueBytes (x :: xs) = beBytes x.1.toNat x.2.toNat ++ valueBytes xs := List.flatMap_cons

theorem length_valueBytes (xs : List (BitVec 8 × BitVec 64)) :
    (valueBytes xs).length = (xs.map fun x => x.1.toNat).sum := by
  simp [valueBytes, List.length_flatMap]

theorem Memory.writeBytes_append (bs cs : List Byte) :
    ∀ (m : Memory) (a : Nat), m.writeBytes a (bs ++ cs) = (m.writeBytes a bs).writeBytes (a + bs.length) cs := by
  induction bs with
  | nil => intro m a; rfl
  | cons b bs ih =>
    intro m a
    rw [List.cons_append, Memory.writeBytes, Memory.writeBytes, ih, List.length_cons, Nat.add_assoc, Nat.add_comm 1]

/-! ### Writing the values -/

/-- An F.WRDATA that ends OK had its checks met. -/
theorem execFWrdata_ok (h : execFWrdata width s = .next t) (ok : t.status = 0) :
    s.fv.bound = 1#1 ∧ s.hasRoom width.toNat = true ∧ t = s.stored width := by
  obtain ⟨-, rfl⟩ | ⟨bound, h⟩ := whenBound_next.mp h
  · cases State.finished_status_eq_zero ok
  split at h
  · rw [fail_next.mp h] at ok
    cases State.finished_status_eq_zero ok
  · split at h
    · rw [fail_next.mp h] at ok
      cases State.finished_status_eq_zero ok
    · rename_i room
      exact ⟨bound, by simpa using room, finish_next.mp (access_next.mp h).2⟩

/-- A run of writes that ends, ends by its first write and the run of the others. -/
theorem writeValues_cons {x : BitVec 8 × BitVec 64} (h : writeValues (x :: xs) s = some t) :
    s.hasRoom x.1.toNat = true ∧ execFWrdata x.1 { s with dataIn := x.2 } = .next ({ s with dataIn := x.2 }.stored x.1) ∧
      writeValues xs ({ s with dataIn := x.2 }.stored x.1) = some t := by
  unfold writeValues at h
  split at h
  case h_1 u ended =>
    split at h
    case isTrue ok =>
      obtain ⟨-, room, rfl⟩ := execFWrdata_ok ended ok
      exact ⟨room, ended, h⟩
    case isFalse => cases h
  case h_2 => cases h

/-- What writing the values does to the state: their bytes are in the payload from the cursor on, and the cursor is past them. -/
structure Wrote (xs : List (BitVec 8 × BitVec 64)) (s t : State) : Prop where
  inv : Inv t
  view : t.fv = { s.fv with cursor := t.fv.cursor }
  cursor : t.fv.cursor.toNat = s.fv.cursor.toNat + (valueBytes xs).length
  mem : t.mem = s.mem.writeBytes s.cursorAddr (valueBytes xs)

theorem State.cursorAddr_stored (room : s.hasRoom width.toNat = true) :
    (s.stored width).cursorAddr = s.cursorAddr + width.toNat :=
  (congrArg (s.payloadBase + ·) (toNat_cursor_of_room room)).trans (Nat.add_assoc ..).symm

/-- One write before the others. -/
theorem Wrote.cons {x : BitVec 8 × BitVec 64} (room : s.hasRoom x.1.toNat = true)
    (rest : Wrote xs ({ s with dataIn := x.2 }.stored x.1) t) : Wrote (x :: xs) s t where
  inv := rest.inv
  view := rest.view
  cursor := by
    have moved : ({ s with dataIn := x.2 }.stored x.1).fv.cursor.toNat = s.fv.cursor.toNat + x.1.toNat :=
      toNat_cursor_of_room room
    rw [rest.cursor, moved, valueBytes_cons, List.length_append, length_beBytes, Nat.add_assoc]
  mem := by
    have moved : ({ s with dataIn := x.2 }.stored x.1).cursorAddr = s.cursorAddr + x.1.toNat :=
      State.cursorAddr_stored (s := { s with dataIn := x.2 }) room
    rw [rest.mem, moved, valueBytes_cons, Memory.writeBytes_append, length_beBytes]
    rfl

theorem writeValues_wrote : ∀ {s : State}, Inv s → writeValues xs s = some t → Wrote xs s t := by
  induction xs with
  | nil =>
    intro s inv h
    cases h
    exact ⟨inv, rfl, rfl, rfl⟩
  | cons x xs ih =>
    intro s inv h
    obtain ⟨room, ended, others⟩ := writeValues_cons h
    have inv' : Inv { s with dataIn := x.2 } := inv.congr rfl rfl rfl rfl rfl
    exact .cons room (ih (inv'.exec (i := .fWrdata x.1) ended) others)

theorem Wrote.bound (h : Wrote xs s t) (bound : s.fv.bound = 1#1) : t.fv.bound = 1#1 := by
  rw [h.view]
  exact bound

/-- From the payload's start on, the cursor counts the bytes written. -/
theorem Wrote.cursor_of_start (h : Wrote xs s t) (start : s.fv.cursor = 0#12) :
    t.fv.cursor.toNat = (valueBytes xs).length := by
  rw [h.cursor, start]
  exact Nat.zero_add _

/-- Written from the payload's start on, the values' bytes are the written payload. -/
theorem Wrote.payload (h : Wrote xs s t) (wf : s.mem.wf = true) (bound : s.fv.bound = 1#1) (start : s.fv.cursor = 0#12) :
    t.mem.readBytes t.payloadBase (valueBytes xs).length = valueBytes xs := by
  have address : t.payloadBase = s.cursorAddr := by
    rw [State.cursorAddr, State.payloadBase, State.payloadBase, h.view, start]
    rfl
  have inside := h.inv.le_of_covers (h.bound bound) (h.inv.covers_writtenPayload (h.bound bound))
  rw [h.cursor_of_start start, address] at inside
  rw [address, h.mem]
  exact Memory.readBytes_writeBytes wf inside

/-! ### Reading them back -/

/-- What F.RDDATA leaves: the bytes, the cached header, and the view but for its cursor. -/
structure SameFrame (s t : State) : Prop where
  params : t.params = s.params
  mem : t.mem = s.mem
  fh : t.fh = s.fh
  view : t.fv = { s.fv with cursor := t.fv.cursor }

theorem SameFrame.refl (s : State) : SameFrame s s := ⟨rfl, rfl, rfl, rfl⟩

theorem SameFrame.trans (h : SameFrame s t) (h' : SameFrame t u) : SameFrame s u where
  params := h'.params.trans h.params
  mem := h'.mem.trans h.mem
  fh := h'.fh.trans h.fh
  view := by rw [h'.view, h.view]

theorem sameFrame_loaded (width : BitVec 8) (s : State) : SameFrame s (s.loaded width) := ⟨rfl, rfl, rfl, rfl⟩

theorem SameFrame.validView (h : SameFrame s t) (valid : ValidView s) : ValidView t := by
  rw [ValidView, h.params, h.mem, h.fh, h.view]
  exact valid

theorem SameFrame.execFIsvalid (h : SameFrame s t) (bound : s.fv.bound = 1#1)
    (inside : s.fv.base.toNat + s.fv.size.toNat ≤ memSize) (valid : ValidView s) :
    execFIsvalid t = finish .ok 1#32 t := by
  refine execFIsvalid_of_valid ?_ ?_ (h.validView valid) <;> rw [h.view]
  · exact bound
  · exact inside

theorem Readable.readValues_cons (h : Readable s width.toNat) (widths : List (BitVec 8)) :
    readValues (width :: widths) s =
      (readValues widths (s.loaded width)).map fun r => ((s.loaded width).dataOut :: r.1, r.2) := by
  have ended : exec (.fRddata width) s = .next (s.loaded width) := h.execFRddata
  rw [readValues, ended]
  exact if_pos rfl

/-- A value masked to its width (41_frame.md rule R141). -/
def maskedValue (x : BitVec 8 × BitVec 64) : BitVec 64 := BitVec.ofNat 64 (x.2.toNat % 2 ^ (8 * x.1.toNat))

/-- DATA_OUT where the bytes at the cursor are those of a value. -/
theorem loaded_dataOut_of_bytes {x : BitVec 8 × BitVec 64}
    (bytes : s.mem.readBytes s.cursorAddr x.1.toNat = beBytes x.1.toNat x.2.toNat) :
    (s.loaded x.1).dataOut = maskedValue x := by
  have width : (2 : Nat) ^ (8 * x.1.toNat) = 256 ^ x.1.toNat := by rw [pow_mul]; norm_num
  rw [maskedValue, width, ← beNat_beBytes, ← bytes]
  rfl

/-- Where the bytes at the cursor are those of the values, reading their widths gives the values. -/
theorem readValues_of_bytes (xs : List (BitVec 8 × BitVec 64)) :
    ∀ s : State, Readable s (valueBytes xs).length →
      s.mem.readBytes s.cursorAddr (valueBytes xs).length = valueBytes xs →
        ∃ z, readValues (xs.map Prod.fst) s = some (xs.map maskedValue, z) ∧ SameFrame s z := by
  induction xs with
  | nil => exact fun s _ _ => ⟨s, rfl, .refl s⟩
  | cons x xs ih =>
    intro s readable bytes
    rw [valueBytes_cons, List.length_append, length_beBytes] at readable bytes
    rw [Memory.readBytes_add] at bytes
    obtain ⟨first, others⟩ := List.append_inj bytes (by simp)
    have readable' : Readable s x.1.toNat := readable.shorter (Nat.le_add_right ..)
    rw [← readable'.cursorAddr_loaded] at others
    obtain ⟨z, values, same⟩ := ih (s.loaded x.1) readable.loaded others
    refine ⟨z, ?_, (sameFrame_loaded x.1 s).trans same⟩
    rw [List.map_cons, readable'.readValues_cons, values, loaded_dataOut_of_bytes first]
    rfl

/-! ### The round trip -/

/-- A Read bind over the bytes of a bound view whose header bytes in M are its cached header's. -/
structure Reopened (u v : State) : Prop where
  params : v.params = u.params
  mem : v.mem = u.mem
  fh : v.fh = u.fh
  view : v.fv = { u.fv with mode := modeRead, cursor := 0 }

theorem reopened_of_execFBind (inv : Inv u) (bound : u.fv.bound = 1#1) (header : HeaderAt u.mem u.fv.base.toNat u.fh)
    (h : exec (.fBind u.fv.base (u.fv.size.setWidth 16) 1#8) u = .next v) : Reopened u v := by
  obtain ⟨-, minSize, maxSize, range, -⟩ := inv.view bound
  have size : (u.fv.size.setWidth 16).toNat = u.fv.size.toNat := BitVec.toNat_setWidth_of_le (by decide)
  obtain ⟨v', ended, registers, -, read⟩ :=
    fBindBindsTheView u u.fv.base (u.fv.size.setWidth 16) 1#8 (by decide) (size ▸ minSize) (size ▸ maxSize) (size ▸ range)
  obtain rfl : v = v' := by injection h.symm.trans ended
  have same : v.fh = u.fh := (read (by decide)).unique header
  rw [registers]
  exact ⟨rfl, rfl, same, by simp [bound]⟩

theorem Reopened.validView (h : Reopened u v) (valid : ValidView u) : ValidView v := by
  rw [ValidView, h.params, h.mem, h.fh, h.view]
  exact valid

theorem Reopened.cursorAddr (h : Reopened u v) : v.cursorAddr = u.payloadBase := by
  rw [State.cursorAddr, State.payloadBase, h.view]
  rfl

/-- The payload written before the Read bind can be read after it. -/
theorem Reopened.readable (h : Reopened u v) (inv : Inv u) (bound : u.fv.bound = 1#1) :
    Readable v u.fv.cursor.toNat := by
  obtain ⟨-, -, -, inside, room⟩ := inv.view bound
  have mode : v.fv.mode = modeRead := by rw [h.view]
  have cursor : v.fv.cursor.toNat = 0 := by rw [h.view]; rfl
  have size : v.fv.size = u.fv.size := by rw [h.view]
  have base : v.fv.base = u.fv.base := by rw [h.view]
  refine ⟨by rw [h.view]; exact bound, canRead_of_mode ?_, hasRoom_iff.mpr ?_, base ▸ size ▸ inside⟩
  · rw [mode]
    decide
  · rw [cursor, size]
    omega

/-- Settles O52: the values' bytes are the payload before F.WRHDR and after it, and the Read bind finds the finalized header. -/
theorem writtenValuesReadBack : Obligations.WrittenValuesReadBack := by
  intro s t u v xs id inv bound start _ written finalized rebound
  have wrote := writeValues_wrote inv written
  have bound_t := wrote.bound bound
  have length := wrote.cursor_of_start start
  obtain rfl : t.finalized id = u := by injection (wrote.inv.execFWrhdr bound_t id).symm.trans finalized
  have inv_u : Inv (t.finalized id) := wrote.inv.exec (i := .fWrhdr id) finalized
  have reopened := reopened_of_execFBind inv_u bound_t (wrote.inv.headerAt_finalized bound_t id) rebound
  have readable : Readable v (valueBytes xs).length := length ▸ reopened.readable inv_u bound_t
  have bytes : v.mem.readBytes v.cursorAddr (valueBytes xs).length = valueBytes xs := by
    rw [reopened.cursorAddr, reopened.mem]
    exact (wrote.inv.readBytes_finalized bound_t id _).trans (wrote.payload inv.mem bound start)
  obtain ⟨z, values, same⟩ := readValues_of_bytes xs v readable bytes
  have valid : ValidView v := reopened.validView (wrote.inv.validView_finalized bound_t id)
  have header : z.fh = finalHeader id t := same.fh.trans reopened.fh
  refine ⟨z, values, same.execFIsvalid readable.bound readable.inside valid, ?_, ?_⟩
  · rw [header]
    rfl
  · rw [header, wrote.inv.finalHeader_len bound_t id, length, length_valueBytes]

end Sys2Proof.Machine
end

section
/-! SUPPORT. The stuffing relations of 42_stuffing.md rules R161 to R163 and the machine's scans: each scan decides its
relation, and a stuffed form shows the same short windows as what it was stuffed from. -/

namespace Sys2Proof.Machine

variable {p q src rest out : List Byte} {b e x : Byte} {fuel k r : Nat}

/-! ### One turn of each scan -/

theorem stuffScan_match (head : p ≠ []) (e : Byte) (fuel : Nat) (rest : List Byte) :
    stuffScan p e (fuel + 1) (p ++ rest) =
      (p ++ e :: (stuffScan p e fuel rest).1, (stuffScan p e fuel rest).2 + 1) := by
  obtain ⟨b, q, rfl⟩ := List.exists_cons_of_ne_nil head
  simp [stuffScan, List.isPrefixOf_iff_prefix]

theorem stuffScan_mismatch (mismatch : ¬ p <+: b :: rest) (e : Byte) (fuel : Nat) :
    stuffScan p e (fuel + 1) (b :: rest) = (b :: (stuffScan p e fuel rest).1, (stuffScan p e fuel rest).2) :=
  if_neg (mt List.isPrefixOf_iff_prefix.mp mismatch)

theorem destuffScan_match (head : p ≠ []) (e : Byte) (fuel : Nat) (rest : List Byte) :
    destuffScan p e (fuel + 1) (p ++ e :: rest) = (destuffScan p e fuel rest).map fun r => (p ++ r.1, r.2 + 1) := by
  obtain ⟨b, q, rfl⟩ := List.exists_cons_of_ne_nil head
  simp [destuffScan, List.isPrefixOf_iff_prefix]

/-- A match whose escape is missing ends the scan without an answer (42_stuffing.md rule R163). -/
theorem destuffScan_malformed (head : p ≠ []) (fuel : Nat) (malformed : ∀ tail, rest ≠ e :: tail) :
    destuffScan p e (fuel + 1) (p ++ rest) = none := by
  obtain ⟨b, q, rfl⟩ := List.exists_cons_of_ne_nil head
  cases rest with
  | nil => simp [destuffScan, List.isPrefixOf_iff_prefix]
  | cons x tail =>
    have other : x ≠ e := fun same => malformed tail (by rw [same])
    simp [destuffScan, List.isPrefixOf_iff_prefix, other]

theorem destuffScan_mismatch (mismatch : ¬ p <+: b :: rest) (e : Byte) (fuel : Nat) :
    destuffScan p e (fuel + 1) (b :: rest) = (destuffScan p e fuel rest).map fun r => (b :: r.1, r.2) :=
  if_neg (mt List.isPrefixOf_iff_prefix.mp mismatch)

/-! ### The stuffing scan decides its relation -/

/-- A matched P takes at least one byte. -/
theorem length_le_of_match (head : p ≠ []) (split : p ++ rest = b :: src) : rest.length ≤ src.length := by
  have positive := List.length_pos_iff.mpr head
  have total := congrArg List.length split
  rw [List.length_append, List.length_cons] at total
  omega

theorem stuffed_stuffScan (head : p ≠ []) (e : Byte) :
    ∀ (fuel : Nat) (src : List Byte), src.length ≤ fuel →
      Stuffed p e src (stuffScan p e fuel src).1 (stuffScan p e fuel src).2 := by
  intro fuel
  induction fuel with
  | zero =>
    intro src enough
    rw [List.length_eq_zero_iff.mp (Nat.le_zero.mp enough)]
    exact .nil
  | succ fuel ih =>
    intro src enough
    match src with
    | [] => exact .nil
    | b :: src =>
      have less : src.length ≤ fuel := Nat.le_of_succ_le_succ enough
      by_cases found : p <+: b :: src
      · obtain ⟨rest, split⟩ := found
        rw [← split, stuffScan_match head]
        exact .hit _ _ _ (ih rest ((length_le_of_match head split).trans less))
      · rw [stuffScan_mismatch found]
        exact .miss _ _ _ _ found (ih src less)

theorem Stuffed.stuffScan_eq (head : p ≠ []) (h : Stuffed p e src out k) :
    ∀ fuel, src.length ≤ fuel → stuffScan p e fuel src = (out, k) := by
  induction h with
  | nil =>
    intro fuel _
    cases fuel <;> rfl
  | hit rest out k _ ih =>
    intro fuel enough
    have positive := List.length_pos_iff.mpr head
    rw [List.length_append] at enough
    obtain ⟨fuel, rfl⟩ := Nat.exists_eq_succ_of_ne_zero (n := fuel) (by omega)
    rw [stuffScan_match head, ih fuel (by omega)]
  | miss b rest out k mismatch _ ih =>
    intro fuel enough
    rw [List.length_cons] at enough
    obtain ⟨fuel, rfl⟩ := Nat.exists_eq_succ_of_ne_zero (n := fuel) (by omega)
    rw [stuffScan_mismatch mismatch, ih fuel (by omega)]

/-- The stuffed form and count are the machine's, and no others (42_stuffing.md rules R161 and R162). -/
theorem stuffed_iff (head : p ≠ []) : Stuffed p e src out k ↔ stuffBytes p e src = (out, k) where
  mp h := h.stuffScan_eq head src.length (Nat.le_refl _)
  mpr h := by
    have scanned := stuffed_stuffScan head e src.length src (Nat.le_refl _)
    rwa [← stuffBytes, h] at scanned

/-! ### The destuffing scan decides its relation -/

theorem destuffed_of_destuffScan (head : p ≠ []) :
    ∀ {fuel : Nat} {src out : List Byte} {r : Nat}, src.length ≤ fuel → destuffScan p e fuel src = some (out, r) →
      Destuffed p e src out r := by
  intro fuel
  induction fuel with
  | zero =>
    intro src out r enough answer
    rw [List.length_eq_zero_iff.mp (Nat.le_zero.mp enough)]
    cases answer
    exact .nil
  | succ fuel ih =>
    intro src out r enough answer
    match src with
    | [] =>
      cases answer
      exact .nil
    | b :: src =>
      have less : src.length ≤ fuel := Nat.le_of_succ_le_succ enough
      by_cases found : p <+: b :: src
      · obtain ⟨rest, split⟩ := found
        have shorter := (length_le_of_match head split).trans less
        rw [← split] at answer ⊢
        by_cases escaped : ∃ tail, rest = e :: tail
        · obtain ⟨tail, rfl⟩ := escaped
          rw [destuffScan_match head] at answer
          obtain ⟨_, scanned, same⟩ := Option.map_eq_some_iff.mp answer
          cases same
          exact .hit _ _ _ (ih (Nat.le_of_succ_le shorter) scanned)
        · rw [destuffScan_malformed head fuel (not_exists.mp escaped)] at answer
          cases answer
      · rw [destuffScan_mismatch found] at answer
        obtain ⟨_, scanned, same⟩ := Option.map_eq_some_iff.mp answer
        cases same
        exact .miss _ _ _ _ found (ih less scanned)

theorem Destuffed.destuffScan_eq (head : p ≠ []) (h : Destuffed p e src out r) :
    ∀ fuel, src.length ≤ fuel → destuffScan p e fuel src = some (out, r) := by
  induction h with
  | nil =>
    intro fuel _
    cases fuel <;> rfl
  | hit rest out r _ ih =>
    intro fuel enough
    rw [List.length_append, List.length_cons] at enough
    obtain ⟨fuel, rfl⟩ := Nat.exists_eq_succ_of_ne_zero (n := fuel) (by omega)
    rw [destuffScan_match head, ih fuel (by omega)]
    rfl
  | miss b rest out r mismatch _ ih =>
    intro fuel enough
    rw [List.length_cons] at enough
    obtain ⟨fuel, rfl⟩ := Nat.exists_eq_succ_of_ne_zero (n := fuel) (by omega)
    rw [destuffScan_mismatch mismatch, ih fuel (by omega)]
    rfl

/-- The destuffed form and count are the machine's, and no others (42_stuffing.md rules R161 and R163). -/
theorem destuffed_iff (head : p ≠ []) : Destuffed p e src out r ↔ destuffBytes p e src = some (out, r) where
  mp h := h.destuffScan_eq head src.length (Nat.le_refl _)
  mpr h := destuffed_of_destuffScan head (Nat.le_refl _) h

/-! ### Windows of a stuffed form -/

/-- The stuffed form shows at its start, up to the length of P, what the payload shows: an escape comes behind a whole P. -/
theorem Stuffed.isPrefix_iff (h : Stuffed p e src out k) :
    ∀ {q : List Byte}, q.length ≤ p.length → (q <+: out ↔ q <+: src) := by
  induction h with
  | nil => exact fun _ => Iff.rfl
  | hit rest out k _ _ =>
    intro q short
    have within : ∀ tail : List Byte, q <+: p ++ tail ↔ q <+: p := fun tail =>
      ⟨fun h => List.prefix_of_prefix_length_le h (List.prefix_append p tail) short,
        fun h => h.trans (List.prefix_append p tail)⟩
    rw [within, within]
  | miss b rest out k _ _ ih =>
    intro q short
    cases q with
    | nil => simp
    | cons c q => rw [List.cons_prefix_cons, List.cons_prefix_cons, ih (Nat.le_of_succ_le short)]

/-- Destuffing meets a match exactly where stuffing made one (42_stuffing.md rule R164). -/
theorem Stuffed.destuffed (h : Stuffed p e src out k) : Destuffed p e out src k := by
  induction h with
  | nil => exact .nil
  | hit rest out k _ ih => exact .hit _ _ _ ih
  | miss b rest out k mismatch h ih =>
    exact .miss _ _ _ _ (mt ((Stuffed.miss b rest out k mismatch h).isPrefix_iff (Nat.le_refl _)).mp mismatch) ih

/-- A window that cannot start in the bytes before a list lies in the list. -/
theorem isInfix_of_append_of_head_not_mem {c : Byte} {w ys : List Byte} :
    ∀ {xs : List Byte}, c ∉ xs → c :: w <:+: xs ++ ys → c :: w <:+: ys := by
  intro xs
  induction xs with
  | nil => exact fun _ h => h
  | cons a xs ih =>
    intro fresh h
    rw [List.mem_cons, not_or] at fresh
    obtain start | later := List.infix_cons_iff.mp h
    · exact absurd (List.cons_prefix_cons.mp start).1 fresh.1
    · exact ih fresh.2 later

/-- Where P's first byte is neither in the rest of P nor the escape, the stuffed form holds no P that another byte than the
escape follows: at a scan position there is no P or the escape follows it, and inside an inserted block none starts (42_stuffing.md
rule R165). -/
theorem Stuffed.not_isInfix (h : Stuffed (b :: q) e src out k) (fresh : b ∉ q ++ [e]) (other : x ≠ e) :
    ¬ b :: q ++ [x] <:+: out := by
  induction h with
  | nil => simp
  | hit rest out k _ ih =>
    intro image
    obtain start | later := List.infix_cons_iff.mp image
    · have byte : [x] <+: e :: out := (List.prefix_append_right_inj (b :: q)).mp start
      exact other (List.cons_prefix_cons.mp byte).1
    · refine ih (isInfix_of_append_of_head_not_mem fresh ?_)
      rw [List.append_assoc]
      exact later
  | miss c rest out k mismatch h ih =>
    intro image
    obtain start | later := List.infix_cons_iff.mp image
    · exact mismatch (((Stuffed.miss c rest out k mismatch h).isPrefix_iff (Nat.le_refl _)).mp
        ((List.prefix_append _ _).trans start))
    · exact ih later

end Sys2Proof.Machine
end

section
/-! SUPPORT. F.STUFF and F.DESTUFF with their checks met: the states they end in, and the payload there (42_stuffing.md rules
R162 and R163). -/

namespace Sys2Proof.Machine

variable {s t : State} {out : List Byte × Nat}

/-! ### M -/

/-- A window of a byte range of M, in the range's bytes. -/
theorem Memory.readBytes_isInfix (m : Memory) {a n i j : Nat} (inside : i + j ≤ n) :
    m.readBytes (a + i) j <:+: m.readBytes a n := by
  obtain ⟨rest, rfl⟩ := Nat.exists_eq_add_of_le inside
  rw [Memory.readBytes_add, Memory.readBytes_add]
  exact List.infix_append ..

/-! ### The avoid sequence -/

theorem avoidOk_iff : s.avoidOk = true ↔ 2 ≤ s.avoidLen.toNat ∧ s.avoidLen.toNat ≤ 16 := by
  simp only [State.avoidOk, Bool.and_eq_true, decide_eq_true_eq]
  rfl

/-- P of a legal avoid sequence has a byte. -/
theorem avoidHead_ne_nil (avoid : s.avoidOk = true) : s.avoidHead ≠ [] := by
  have length := avoidHead_length avoid
  have least : 2 ≤ s.seqLen := (avoidOk_iff.mp avoid).1
  exact List.ne_nil_of_length_pos (by omega)

/-- The avoid sequence's bytes before its last, and the escape, where the sequence is the sentinel image. -/
theorem avoid_of_sentinelImage (length : s.avoidLen = 5#8)
    (image : s.avoid.toList.take 5 = [0x7E#8, 0xFE#8, 0x00#8, 0x00#8, 0x00#8]) :
    s.avoidHead = [0x7E#8, 0xFE#8, 0x00#8, 0x00#8] ∧ s.escapeByte = 0xFF#8 := by
  have seqLen : s.seqLen = 5 := congrArg BitVec.toNat length
  constructor
  · calc s.avoidHead = (s.avoid.toList.take 5).take 4 := by rw [State.avoidHead, seqLen, List.take_take]; rfl
      _ = [0x7E#8, 0xFE#8, 0x00#8, 0x00#8] := by rw [image]; rfl
  · have last : s.avoid.toList.getD 4 0 = (s.avoid.toList.take 5).getD 4 0 := by
      rw [List.getD_eq_getElem?_getD, List.getD_eq_getElem?_getD, List.getElem?_take_of_lt (by decide)]
    rw [State.escapeByte, seqLen, last, image]
    rfl

/-! ### F.STUFF -/

/-- The state in which F.STUFF ends where the stuffed form fits the view. -/
def State.stuffed (s : State) : State :=
  ((s.setMem (s.mem.writeBytes s.payloadBase s.stuffedPayload.1)).setCursor
    (s.fv.cursor.toNat + s.stuffedPayload.2)).finished .ok (natResult s.stuffedPayload.2)

/-- F.STUFF's output is the stuffed form of the written payload. -/
theorem stuffed_stuffedPayload (avoid : s.avoidOk = true) :
    Stuffed s.avoidHead s.escapeByte (s.mem.readBytes s.payloadBase s.fv.cursor.toNat)
      s.stuffedPayload.1 s.stuffedPayload.2 :=
  (stuffed_iff (avoidHead_ne_nil avoid)).mpr rfl

/-- Room for the escapes behind the cursor is room for the stuffed form in the view. -/
theorem hasRoom_iff_fits {n : Nat} :
    s.hasRoom n = true ↔ fhSize + (s.fv.cursor.toNat + n) ≤ s.fv.size.toNat := by
  rw [hasRoom_iff, Nat.add_assoc]

theorem Inv.execFStuff_of_room (inv : Inv s) (bound : s.fv.bound = 1#1) (avoid : s.avoidOk = true)
    (room : s.hasRoom s.stuffedPayload.2 = true) : execFStuff s = .next s.stuffed := by
  have fits := hasRoom_iff_fits.mp room
  rw [execFStuff_eq, whenBound_of_bound bound, avoid, access_of_le (inv.le_of_covers bound (inv.covers_writtenPayload bound)),
    if_neg (Nat.not_lt_of_le fits), access_of_le (inv.le_of_covers bound (covers_payload fits))]
  rfl

/-- An F.STUFF that ends OK had its checks met. -/
theorem execFStuff_ok (h : execFStuff s = .next t) (ok : t.status = 0) :
    s.avoidOk = true ∧ s.hasRoom s.stuffedPayload.2 = true ∧ t = s.stuffed := by
  rw [execFStuff_eq] at h
  obtain ⟨-, rfl⟩ | ⟨-, h⟩ := whenBound_next.mp h
  · cases State.finished_status_eq_zero ok
  split at h
  · rw [finish_next.mp h] at ok
    cases State.finished_status_eq_zero ok
  · rename_i avoid
    replace h := (access_next.mp h).2
    split at h
    · rw [finish_next.mp h] at ok
      cases State.finished_status_eq_zero ok
    · rename_i room
      exact ⟨by simpa using avoid, hasRoom_iff_fits.mpr (Nat.le_of_not_lt room), finish_next.mp (access_next.mp h).2⟩

/-! The avoid sequence and the payload's address stay under F.STUFF and F.WRHDR. -/

@[simp] theorem State.stuffed_avoidOk (s : State) : s.stuffed.avoidOk = s.avoidOk := rfl
@[simp] theorem State.stuffed_avoidHead (s : State) : s.stuffed.avoidHead = s.avoidHead := rfl
@[simp] theorem State.stuffed_escapeByte (s : State) : s.stuffed.escapeByte = s.escapeByte := rfl
@[simp] theorem State.stuffed_payloadBase (s : State) : s.stuffed.payloadBase = s.payloadBase := rfl
@[simp] theorem State.finalized_avoidOk (id : BitVec 7) (s : State) : (s.finalized id).avoidOk = s.avoidOk := rfl
@[simp] theorem State.finalized_avoidHead (id : BitVec 7) (s : State) : (s.finalized id).avoidHead = s.avoidHead := rfl
@[simp] theorem State.finalized_escapeByte (id : BitVec 7) (s : State) : (s.finalized id).escapeByte = s.escapeByte := rfl
@[simp] theorem State.finalized_payloadBase (id : BitVec 7) (s : State) : (s.finalized id).payloadBase = s.payloadBase := rfl

theorem State.stuffed_cursor (room : s.hasRoom s.stuffedPayload.2 = true) :
    s.stuffed.fv.cursor.toNat = s.fv.cursor.toNat + s.stuffedPayload.2 := toNat_cursor_of_room room

/-- The stuffed form lies inside M. -/
theorem Inv.stuffedPayload_le (inv : Inv s) (bound : s.fv.bound = 1#1) (avoid : s.avoidOk = true)
    (room : s.hasRoom s.stuffedPayload.2 = true) : s.payloadBase + s.stuffedPayload.1.length ≤ memSize := by
  rw [length_stuffedPayload avoid]
  exact inv.le_of_covers bound (covers_payload (hasRoom_iff_fits.mp room))

/-- After F.STUFF the written payload is the stuffed form. -/
theorem Inv.payload_stuffed (inv : Inv s) (bound : s.fv.bound = 1#1) (avoid : s.avoidOk = true)
    (room : s.hasRoom s.stuffedPayload.2 = true) :
    s.stuffed.mem.readBytes s.payloadBase s.stuffed.fv.cursor.toNat = s.stuffedPayload.1 := by
  rw [State.stuffed_cursor room, ← length_stuffedPayload avoid]
  exact Memory.readBytes_writeBytes inv.mem (inv.stuffedPayload_le bound avoid room)

/-- After F.STUFF and F.WRHDR the declared payload is the stuffed form (41_frame.md rule R135). -/
theorem Inv.declaredPayload_stuffed (inv : Inv s) (bound : s.fv.bound = 1#1) (avoid : s.avoidOk = true)
    (room : s.hasRoom s.stuffedPayload.2 = true) (inv' : Inv s.stuffed) (id : BitVec 7) :
    (s.stuffed.finalized id).mem.readBytes s.payloadBase (s.stuffed.finalized id).fh.len.toNat = s.stuffedPayload.1 := by
  have declared : (s.stuffed.finalized id).fh.len.toNat = s.stuffed.fv.cursor.toNat := inv'.finalHeader_len bound id
  have kept := inv'.readBytes_finalized bound id s.stuffed.fv.cursor.toNat
  rw [State.stuffed_payloadBase] at kept
  rw [declared, kept, inv.payload_stuffed bound avoid room]

/-! ### F.DESTUFF -/

/-- The state in which F.DESTUFF ends with a destuffed form and its count. -/
def State.destuffed (out : List Byte × Nat) (s : State) : State :=
  (s.setMem (s.mem.writeBytes s.payloadBase out.1)).finished .ok (natResult out.2)

theorem Inv.execFDestuff_of_destuffed (inv : Inv s) (bound : s.fv.bound = 1#1) (avoid : s.avoidOk = true)
    (valid : ValidView s)
    (scanned : destuffBytes s.avoidHead s.escapeByte (s.mem.readBytes s.payloadBase s.fh.len.toNat) = some out) :
    execFDestuff s = .next (s.destuffed out) := by
  rw [execFDestuff, whenBound_of_bound bound, avoid, withViewValid_of_view (inv.view_le bound), viewValid_iff.mpr valid,
    scanned]
  rfl

/-- The destuffed form lies inside M: it is no longer than the declared payload. -/
theorem Inv.destuffed_le (inv : Inv s) (bound : s.fv.bound = 1#1) (valid : ValidView s)
    (scanned : destuffBytes s.avoidHead s.escapeByte (s.mem.readBytes s.payloadBase s.fh.len.toNat) = some out) :
    s.payloadBase + out.1.length ≤ memSize :=
  inv.le_of_covers bound ((covers_declaredPayload (viewValid_iff.mpr valid)).shorter (length_destuffed_le scanned))

end Sys2Proof.Machine
end

section
/-! PROOFS. Byte stuffing (42_stuffing.md rules R161 to R165). -/

namespace Sys2Proof.Machine

/-- Settles O35: either scan answers exactly what its relation allows. -/
theorem stuffingScanIsTotalAndDeterministic : Obligations.StuffingScanIsTotalAndDeterministic := by
  intro p e src head
  refine ⟨(stuffed_iff head).mpr rfl, stuffBytes_length head e src, fun out k stuffed => ?_, fun out r answer => ?_,
    fun out r => (destuffed_iff head).mp⟩
  · rw [(stuffed_iff head).mp stuffed]
    exact ⟨rfl, rfl⟩
  · exact ⟨(destuffed_iff head).mpr answer, destuffBytes_length answer⟩

/-- Settles O36: the stuffed form is the scan's, and the store is read back byte by byte. -/
theorem fStuffStuffsTheWrittenPayload : Obligations.FStuffStuffsTheWrittenPayload := by
  intro s out k inv bound least most stuffed fits
  have avoid : s.avoidOk = true := avoidOk_iff.mpr ⟨least, most⟩
  have scanned : s.stuffedPayload = (out, k) := (stuffed_iff (avoidHead_ne_nil avoid)).mp stuffed
  obtain rfl : s.stuffedPayload.1 = out := by rw [scanned]
  obtain rfl : s.stuffedPayload.2 = k := by rw [scanned]
  have room : s.hasRoom s.stuffedPayload.2 = true := hasRoom_iff.mpr fits
  exact ⟨s.stuffed, inv.execFStuff_of_room bound avoid room, rfl, State.stuffed_cursor room, fun a =>
    Memory.readByte_writeBytes _ inv.mem _ a (inv.stuffedPayload_le bound avoid room)⟩

/-- Settles O37: the destuffed form is the scan's, and the store ends before the freed tail. -/
theorem fDestuffRemovesTheEscapes : Obligations.FDestuffRemovesTheEscapes := by
  intro s out r inv bound least most valid destuffed
  have avoid : s.avoidOk = true := avoidOk_iff.mpr ⟨least, most⟩
  have scanned := (destuffed_iff (avoidHead_ne_nil avoid)).mp destuffed
  have length := destuffBytes_length scanned
  rw [Memory.length_readBytes] at length
  exact ⟨length, s.destuffed (out, r), inv.execFDestuff_of_destuffed bound avoid valid scanned, rfl, fun a =>
    Memory.readByte_writeBytes _ inv.mem _ a (inv.destuffed_le bound valid scanned)⟩

/-- Settles O55: F.WRHDR declares and keeps the stuffed payload, and its one destuffed form is the original. -/
theorem destuffUndoesStuff : Obligations.DestuffUndoesStuff := by
  intro s t u id inv bound stuff ok wrhdr
  obtain ⟨avoid, room, rfl⟩ := execFStuff_ok stuff ok
  have inv_t : Inv s.stuffed := inv.exec (i := .fStuff) stuff
  obtain rfl : s.stuffed.finalized id = u := by injection (inv_t.execFWrhdr bound id).symm.trans wrhdr
  have inv_u : Inv (s.stuffed.finalized id) := inv_t.exec (i := .fWrhdr id) wrhdr
  have valid : ValidView (s.stuffed.finalized id) := inv_t.validView_finalized bound id
  have original : destuffBytes s.avoidHead s.escapeByte s.stuffedPayload.1 =
      some (s.mem.readBytes s.payloadBase s.fv.cursor.toNat, s.stuffedPayload.2) :=
    (destuffed_iff (avoidHead_ne_nil avoid)).mp (stuffed_stuffedPayload avoid).destuffed
  have scanned : destuffBytes (s.stuffed.finalized id).avoidHead (s.stuffed.finalized id).escapeByte
      ((s.stuffed.finalized id).mem.readBytes (s.stuffed.finalized id).payloadBase
        (s.stuffed.finalized id).fh.len.toNat) =
      some (s.mem.readBytes s.payloadBase s.fv.cursor.toNat, s.stuffedPayload.2) := by
    simpa [inv.declaredPayload_stuffed bound avoid room inv_t] using original
  refine ⟨_, inv_u.execFDestuff_of_destuffed bound (by simpa using avoid) valid scanned, rfl, rfl, ?_⟩
  have restored := Memory.readBytes_writeBytes inv_u.mem (inv_u.destuffed_le bound valid scanned)
  rw [Memory.length_readBytes, State.finalized_payloadBase, State.stuffed_payloadBase] at restored
  exact restored

/-- Settles O56: the sentinel image is P and a byte that is not the escape, and P's first byte is in it once. -/
theorem stuffedPayloadHoldsNoSentinel : Obligations.StuffedPayloadHoldsNoSentinel := by
  intro s t inv bound length image stuff ok j inside sentinel
  obtain ⟨avoid, room, rfl⟩ := execFStuff_ok stuff ok
  obtain ⟨head, escape⟩ := avoid_of_sentinelImage length image
  have stuffed := stuffed_stuffedPayload avoid
  rw [head, escape] at stuffed
  have window := s.stuffed.mem.readBytes_isInfix (a := s.payloadBase) inside
  rw [State.stuffed_payloadBase] at sentinel
  rw [inv.payload_stuffed bound avoid room, sentinel] at window
  exact stuffed.not_isInfix (x := 0x00#8) (by decide) (by decide) window

end Sys2Proof.Machine
end

section
/-! PROOFS. The group-mode check (43_group.md rule R180): in a mode a command does not accept it decides, and past it no command
answers ERR_CAPABILITY. -/

namespace Sys2Proof.Machine

variable {s : State} {i : Instr} {k : Outcome}

/-! ### Outcomes other than ERR_CAPABILITY -/

/-- If the command ends in a state, STATUS is not ERR_CAPABILITY there. -/
def NotCapability (o : Outcome) : Prop := ∀ t, o = .next t → t.status ≠ 3

namespace NotCapability

theorem finish {st : Status} {res : BitVec 32} (other : st ≠ .errCapability) : NotCapability (finish st res s) := by
  intro t ht
  rw [finish_next.mp ht, State.finished_status]
  cases st with
  | errCapability => exact absurd rfl other
  | _ => decide

theorem fail {st : Status} (other : st ≠ .errCapability) : NotCapability (fail st s) := finish other

theorem access {a n : Nat} (h : NotCapability k) : NotCapability (access a n k) := fun t ht => h t (access_next.mp ht).2

theorem ite {c : Prop} [Decidable c] {k' : Outcome} (h : NotCapability k) (h' : NotCapability k') :
    NotCapability (if c then k else k') := by
  split
  · exact h
  · exact h'

theorem withViewValid {f : Bool → Outcome} (h : NotCapability (f s.viewValid)) : NotCapability (withViewValid s f) :=
  fun t ht => h t (withViewValid_next.mp ht).1

theorem whenGroup {modes : List (BitVec 2)} (accepted : s.grp.mode ∈ modes) (h : NotCapability k) :
    NotCapability (whenGroup modes s k) := by
  rwa [whenGroup_of_mem accepted]

end NotCapability

/-! ### The two sides of the check -/

theorem exec_of_mode_not_accepted {modes : List (BitVec 2)} (checks : groupModes i = some modes)
    (refused : s.grp.mode ∉ modes) : exec i s = .next { s with status := 3, result := 0 } := by
  obtain ⟨k, hk⟩ := exec_eq_whenGroup checks s
  exact hk.trans (whenGroup_of_not_mem refused)

theorem exec_notCapability_of_mode_accepted {modes : List (BitVec 2)} (checks : groupModes i = some modes)
    (accepted : s.grp.mode ∈ modes) : NotCapability (exec i s) := by
  cases i with
  | gCommit =>
    cases checks
    exact .whenGroup accepted <| .withViewValid <| .ite (.fail nofun) <| .ite (.fail nofun) (.finish nofun)
  | gNext =>
    cases checks
    refine .whenGroup accepted <| .withViewValid ?_
    split <;> exact .finish nofun
  | gTrailer =>
    cases checks
    exact .whenGroup accepted <| .access <| .finish nofun
  | gHdrvalid | gCalcsize =>
    cases checks
    exact .whenGroup accepted <| .finish nofun
  | _ => cases checks

theorem execGOpenw_notCapability : NotCapability (execGOpenw s) := .finish nofun

theorem execGOpenr_notCapability (size : BitVec 16) : NotCapability (execGOpenr size s) :=
  .ite (.fail nofun) (.finish nofun)

/-- Settles O13: each command with a group-mode check, on either side of it, and the two that open a group. -/
theorem groupModeCheckComesFirst : Obligations.GroupModeCheckComesFirst := by
  intro s
  have write : ∀ i ∈ [Instr.gCommit, .gTrailer], groupModes i = some [groupWrite] := by decide
  have either : ∀ i ∈ [Instr.gHdrvalid, .gCalcsize], groupModes i = some [groupRead, groupWrite] := by decide
  exact ⟨fun other i mem => exec_of_mode_not_accepted (write i mem) (by simpa using other),
    fun other => exec_of_mode_not_accepted rfl (by simpa using other),
    fun notRead notWrite i mem => exec_of_mode_not_accepted (either i mem) (by simp [notRead, notWrite]),
    fun mode i mem => exec_notCapability_of_mode_accepted (write i mem) (by simp [mode]),
    fun mode => exec_notCapability_of_mode_accepted (i := .gNext) rfl (by simp [mode]),
    fun mode i mem => exec_notCapability_of_mode_accepted (either i mem) (by simpa using mode),
    execGOpenw_notCapability, execGOpenr_notCapability⟩

end Sys2Proof.Machine
end

section
/-! SUPPORT. The group commands with their checks met, one equation each: the state an opening, a commit and a trailer end in; and
the group header's validity over the wire bytes (43_group.md rules R181 to R187). -/

namespace Sys2Proof.Machine

variable {s : State}

/-! ### The current frame -/

theorem bindCurrent_size_toNat (s : State) (p : Nat) (mode : BitVec 2) :
    (bindCurrent p mode s).fv.size.toNat = min (s.grp.size.toNat - p) 2052 :=
  Nat.mod_eq_of_lt (Nat.lt_of_le_of_lt (Nat.min_le_right _ _) (by decide))

theorem bindCurrent_fc_toNat {p : Nat} (mode : BitVec 2) (inside : p ≤ s.grp.size.toNat) :
    (bindCurrent p mode s).grp.fc.toNat = p := Nat.mod_eq_of_lt (inside.trans_lt s.grp.size.isLt)

/-! ### The group header -/

theorem groupCrc_eq_wireGroupCrc (pr : Params) (h : GroupHeader) : groupCrc pr h = wireGroupCrc pr h := by
  rw [groupCrc, serGH_eq_wireGroupHeader]
  rfl

theorem groupHeaderValid_iff {pr : Params} {h : GroupHeader} : groupHeaderValid pr h = true ↔ ValidGroupHeader pr h := by
  simp [groupHeaderValid, ValidGroupHeader, groupCrc_eq_wireGroupCrc]

/-- What DesGH reads from thirteen bytes of M has those bytes as its wire form (40_fields_crc.md rule R105). -/
theorem wireGroupHeader_desGH_readBytes (m : Memory) (p : Nat) :
    wireGroupHeader (desGH (m.readBytes p ghSize)) = m.readBytes p 13 := by
  rw [← serGH_eq_wireGroupHeader]
  exact serGH_desGH (Memory.length_readBytes m 13 p)

/-- The CRC does not cover its own field, so storing it there makes the header valid (40_fields_crc.md rules R108 and R112). -/
theorem groupHeaderValid_trailerHeader (s : State) : groupHeaderValid s.params (trailerHeader s) = true := by
  rw [groupHeaderValid, Bool.and_eq_true, beq_iff_eq, beq_iff_eq]
  exact ⟨rfl, rfl⟩

/-! ### G.OPENW and G.OPENR -/

/-- The state in which G.OPENW ends. -/
def State.openedForWrite (s : State) : State :=
  (bindCurrent ghSize modeWrite
    (((s.setMem Memory.cleared).setGroup
      { mode := groupWrite, size := BitVec.ofNat 16 groupMaxSize, fc := BitVec.ofNat 16 ghSize, frames := 0 }).setGh
      GroupHeader.zero)).finished .ok 1#32

theorem execGOpenw_eq (s : State) : execGOpenw s = .next s.openedForWrite := rfl

/-- The state in which G.OPENR ends with a legal size. -/
def State.openedForRead (size : BitVec 16) (s : State) : State :=
  (bindCurrent ghSize modeRead
    ((s.setGroup { mode := groupRead, size := size, fc := BitVec.ofNat 16 ghSize, frames := 0 }).setGh
      (desGH (s.mem.readBytes 0 ghSize)))).finished .ok 1#32

theorem execGOpenr_of_minSize {size : BitVec 16} (minSize : s.params.groupMinSize ≤ size.toNat) :
    execGOpenr size s = .next (s.openedForRead size) := by
  have maxSize : size.toNat ≤ groupMaxSize := Nat.le_of_lt_succ size.isLt
  exact if_neg (by omega)

/-! ### G.COMMIT -/

/-- The view of an open group lies inside M (10_state.md rules R33 and R37). -/
theorem Inv.view_le_of_group (inv : Inv s) (opened : s.grp.mode ≠ groupNone) :
    s.fv.base.toNat + s.fv.size.toNat ≤ memSize := inv.view_le (inv.bound_of_group opened)

/-- G.COMMIT in a write group: the two checks in their order, then the commit (43_group.md rule R183). -/
theorem Inv.execGCommit (inv : Inv s) (write : s.grp.mode = groupWrite) :
    execGCommit s =
      if !s.viewValid then fail .errPrecond s
      else if s.grp.size.toNat < s.grp.fc.toNat + fhSize + s.fh.len.toNat + fhSize then fail .noFrame s
      else .next s.committed := by
  rw [Machine.execGCommit, whenGroup_of_mem (by simp [write]),
    withViewValid_of_view (inv.view_le_of_group (by rw [write]; decide))]
  rfl

/-! ### G.NEXT -/

/-- How G.NEXT ends after its scan. -/
def State.afterScan (s : State) : ScanStop → Outcome
  | .sentinel p => finish .noFrame 0#32 (bindCurrent p modeRead s)
  | .frame p => finish .ok 1#32 (bindCurrent p modeRead s)
  | .bufferEnd => finish .noFrame 0#32 s

/-- G.NEXT in a read group: what its scan stops at decides (43_group.md rule R184). -/
theorem Inv.execGNext (inv : Inv s) (read : s.grp.mode = groupRead) :
    execGNext s = s.afterScan (nextStop s s.viewValid) := by
  rw [Machine.execGNext, whenGroup_of_mem (by simp [read]),
    withViewValid_of_view (inv.view_le_of_group (by rw [read]; decide))]
  cases nextStop s s.viewValid <;> rfl

/-! ### G.TRAILER -/

/-- The state in which G.TRAILER ends in a write group. -/
def State.trailed (s : State) : State :=
  ((s.setGh (trailerHeader s)).setMem
    ((s.mem.writeBytes s.grp.fc.toNat (serFH sentinelHeader)).writeBytes 0 (serGH (trailerHeader s)))).finished .ok 1#32

/-- The sentinel fits M at the frame cursor of an open group. -/
theorem Inv.sentinel_le (inv : Inv s) (opened : s.grp.mode ≠ groupNone) : s.grp.fc.toNat + 5 ≤ memSize :=
  (inv.sentinel_room opened).2.trans (Nat.le_of_lt_succ s.grp.size.isLt)

theorem Inv.execGTrailer (inv : Inv s) (write : s.grp.mode = groupWrite) : execGTrailer s = .next s.trailed := by
  rw [Machine.execGTrailer, whenGroup_of_mem (by simp [write]),
    access_of_le (inv.sentinel_le (by rw [write]; decide))]
  rfl

theorem groupHeader_le (h : GroupHeader) : 0 + (serGH h).length ≤ memSize := by
  rw [length_serGH]
  decide

/-- M after G.TRAILER: the group header at 0, the sentinel at the frame cursor, and the rest as before. -/
theorem Inv.readByte_trailed (inv : Inv s) (write : s.grp.mode = groupWrite) (a : Nat) :
    s.trailed.mem.readByte a =
      if a < 13 then (serGH (trailerHeader s)).getD a 0
      else if s.grp.fc.toNat ≤ a ∧ a < s.grp.fc.toNat + 5 then (serFH sentinelHeader).getD (a - s.grp.fc.toNat) 0
      else s.mem.readByte a := by
  have sentinel := Memory.readByte_writeBytes (serFH sentinelHeader) inv.mem s.grp.fc.toNat a
    (inv.sentinel_le (by rw [write]; decide))
  have header := Memory.readByte_writeBytes (serGH (trailerHeader s))
    (Memory.wf_writeBytes (serFH sentinelHeader) inv.mem s.grp.fc.toNat) 0 a (groupHeader_le _)
  rw [sentinel, length_serFH, length_serGH] at header
  exact header.trans (if_congr (by simp) rfl rfl)

/-! ### Queries -/

theorem execGHdrvalid_of_group (opened : s.grp.mode ∈ [groupRead, groupWrite]) :
    execGHdrvalid s = finish .ok (boolResult (groupHeaderValid s.params s.gh)) s := whenGroup_of_mem opened

theorem execGHdrvalid_of_valid (opened : s.grp.mode ∈ [groupRead, groupWrite])
    (valid : groupHeaderValid s.params s.gh = true) : execGHdrvalid s = finish .ok 1#32 s := by
  rw [execGHdrvalid_of_group opened, valid]
  rfl

theorem execGCalcsize_of_group (opened : s.grp.mode ∈ [groupRead, groupWrite]) :
    execGCalcsize s = finish .ok (natResult (recoveredSize s)) s := whenGroup_of_mem opened

end Sys2Proof.Machine
end

section
/-! PROOFS. Opening a group, committing a frame, writing the trailer, and the group header's validity (43_group.md rules R181 to
R183, R185 and R186). -/

namespace Sys2Proof.Machine

/-- Settles O39: the one state G.OPENW ends in. -/
theorem gOpenwOpensAnEmptyGroup : Obligations.GOpenwOpensAnEmptyGroup := by
  intro s
  refine ⟨s.openedForWrite, execGOpenw_eq s, ?_, Memory.readByte_cleared⟩
  cases s
  rfl

/-- Settles O40: the opened state, and both headers as the bytes they were loaded from. -/
theorem gOpenrOpensTheBytesInM : Obligations.GOpenrOpensTheBytesInM := by
  intro s size _ minSize
  refine ⟨s.openedForRead size, execGOpenr_of_minSize minSize, ?_, bindCurrent_size_toNat _ ghSize modeRead,
    wireGroupHeader_desGH_readBytes s.mem 0, headerAt_desFH s.mem 13⟩
  cases s
  rfl

/-- Settles O41: both checks of G.COMMIT are met, and the frame cursor does not wrap. -/
theorem gCommitAdvancesPastTheFrame : Obligations.GCommitAdvancesPastTheFrame := by
  intro s inv write valid room
  have fc := committed_fc room
  have committed : execGCommit s = .next s.committed := by
    rw [inv.execGCommit write, viewValid_iff.mpr valid]
    exact if_neg (Nat.not_lt_of_le room)
  refine ⟨s.committed, committed, ?_, fc, BitVec.toNat_add .., ?_⟩
  · cases s
    rfl
  · rw [fc]
    exact bindCurrent_size_toNat (s.setGroup { s.grp with frames := s.grp.frames + 1 }) _ modeWrite

/-- Settles O42: the first check of G.COMMIT fails, or it is met and the second fails. -/
theorem gCommitFailuresInOrder : Obligations.GCommitFailuresInOrder := by
  intro s inv write
  refine ⟨fun invalid => ?_, fun valid full => ?_⟩
  · have bit : s.viewValid = false := Bool.eq_false_iff.mpr fun e => invalid (viewValid_iff.mp e)
    exact (inv.execGCommit write).trans (if_pos (by simp [bit]))
  · refine (inv.execGCommit write).trans ?_
    rw [viewValid_iff.mpr valid]
    exact if_pos full

/-- Settles O45: the trailer's header over the wire bytes, and M read back byte by byte. -/
theorem gTrailerWritesSentinelAndHeader : Obligations.GTrailerWritesSentinelAndHeader := by
  intro s inv write
  refine ⟨s.trailed, inv.execGTrailer write, ?_, fun a => ?_⟩
  · rw [← groupCrc_eq_wireGroupCrc]
    rfl
  · rw [← serGH_eq_wireGroupHeader, ← serFH_sentinel]
    exact inv.readByte_trailed write a

/-- Settles O46: RESULT is HValid(GH). -/
theorem gHdrvalidAnswersValidity : Obligations.GHdrvalidAnswersValidity := fun s =>
  ⟨exec_of_mode_not_accepted rfl, fun opened =>
    ⟨boolResult (groupHeaderValid s.params s.gh), execGHdrvalid_of_group opened, boolResult_of_iff groupHeaderValid_iff⟩⟩

/-- The thirteen bytes a reader loads after G.TRAILER are the header the writer cached. -/
theorem Inv.desGH_trailed {s : State} (inv : Inv s) : desGH (s.trailed.mem.readBytes 0 ghSize) = trailerHeader s := by
  have stored : s.trailed.mem.readBytes 0 ghSize = serGH (trailerHeader s) :=
    Memory.readBytes_writeBytes (Memory.wf_writeBytes _ inv.mem _) (groupHeader_le _)
  rw [stored, desGH_serGH]

/-- Settles O57: the trailer's header is valid, and a reader loads the same one. -/
theorem gTrailerMakesTheGroupHeaderValid : Obligations.GTrailerMakesTheGroupHeaderValid := by
  intro s t inv write ht
  obtain rfl : s.trailed = t := by injection (inv.execGTrailer write).symm.trans ht
  have valid := groupHeaderValid_trailerHeader s
  have writing : s.trailed.grp.mode ∈ [groupRead, groupWrite] := List.mem_of_mem_tail (List.mem_singleton.mpr write)
  refine ⟨execGHdrvalid_of_valid writing valid, fun size minSize => ?_⟩
  have same : (s.trailed.openedForRead size).gh = trailerHeader s := inv.desGH_trailed
  refine ⟨s.trailed.openedForRead size, execGOpenr_of_minSize minSize, same, ?_⟩
  exact execGHdrvalid_of_valid List.mem_cons_self (same ▸ valid)

end Sys2Proof.Machine
end

section
/-! SUPPORT. The frame scanner's probes and its two loops, against the relations without a fuel (43_group.md rules R184 and R187,
40_fields_crc.md rule R113). -/

namespace Sys2Proof.Machine

variable {pr : Params} {m : Memory} {gsize n p q : Nat} {h : FrameHeader}

/-! ### Probes -/

/-- The header of five bytes of M is the one a probe reads there. -/
theorem headerAt_iff : HeaderAt m p h ↔ probeHeader m p = h :=
  ⟨(headerAt_desFH m p).unique, fun e => e ▸ headerAt_desFH m p⟩

theorem probeHeader_magic (m : Memory) (p : Nat) : (probeHeader m p).magic = m.readByte p :=
  (List.cons.inj (headerAt_desFH m p)).1

theorem probeEog_iff : probeEog m p = true ↔ EogHeader (probeHeader m p) := isEog_iff

theorem probeValid_iff :
    probeValid pr m gsize p = true ↔ ValidAt pr m (probeHeader m p) p (min (gsize - p) 2052) := frameValid_iff

/-- What the scanner stops at, as probes. -/
theorem stopsAt_iff :
    StopsAt pr m gsize p h ↔
      p + 5 ≤ gsize ∧ probeHeader m p = h ∧ (probeEog m p = true ∨ probeValid pr m gsize p = true) := by
  rw [StopsAt, headerAt_iff, probeEog_iff, probeValid_iff]
  refine and_congr_right fun _ => and_congr_right fun read => ?_
  rw [read]

/-- A sentinel and a valid frame begin with the magic byte. -/
theorem StopsAt.magic (stop : StopsAt pr m gsize p h) : m.readByte p = frameMagic := by
  obtain ⟨-, header, ⟨magic, -⟩ | ⟨magic, -⟩⟩ := stop <;>
    rw [← probeHeader_magic, headerAt_iff.mp header, magic]

/-! ### The scan for the next frame -/

/-- How the scan reports the header it stops at. -/
def stopOf (h : FrameHeader) (p : Nat) : ScanStop := if isEog h then .sentinel p else .frame p

/-- A stop with none after it before p is at p. -/
theorem StopsAt.eq_of_first {start : Nat} (found : StopsAt pr m gsize start h) (le : start ≤ p)
    (first : ∀ q h', start ≤ q → q < p → ¬ StopsAt pr m gsize q h') : start = p :=
  le.antisymm (Nat.le_of_not_lt fun lt => first start h (Nat.le_refl _) lt found)

/-- The scan stops at the first stop from its start on, if its fuel reaches there. -/
theorem scanNext_of_first {fuel start : Nat} (stop : StopsAt pr m gsize p h) (le : start ≤ p)
    (reach : p < start + fuel) (first : ∀ q h', start ≤ q → q < p → ¬ StopsAt pr m gsize q h') :
    scanNext pr m gsize fuel start = stopOf h p := by
  obtain ⟨inside, header, found⟩ := stopsAt_iff.mp stop
  fun_induction scanNext pr m gsize fuel start with
  | case1 => omega
  | case2 fuel start outside => exact absurd inside (by simp only [fhSize] at outside; omega)
  | case3 fuel start _ noMagic ih =>
    have past : start ≠ p := fun e => noMagic (e ▸ stop.magic)
    exact ih (by omega) (by omega) fun q h' from_start => first q h' (by omega)
  | case4 fuel start room _ eog =>
    obtain rfl := (stopsAt_iff.mpr ⟨Nat.le_of_not_lt room, rfl, .inl eog⟩).eq_of_first le first
    subst header
    exact (if_pos eog).symm
  | case5 fuel start room _ noEog valid =>
    obtain rfl := (stopsAt_iff.mpr ⟨Nat.le_of_not_lt room, rfl, .inr valid⟩).eq_of_first le first
    subst header
    exact (if_neg noEog).symm
  | case6 fuel start _ _ noEog invalid ih =>
    have past : start ≠ p := by
      rintro rfl
      exact found.elim noEog invalid
    exact ih (by omega) (by omega) fun q h' from_start => first q h' (by omega)

/-- With nothing to stop at, the scan meets the end of the buffer. -/
theorem scanNext_of_none {fuel start : Nat} (none : ∀ q h, start ≤ q → ¬ StopsAt pr m gsize q h) :
    scanNext pr m gsize fuel start = .bufferEnd := by
  fun_induction scanNext pr m gsize fuel start with
  | case1 | case2 => rfl
  | case3 fuel start _ _ ih => exact ih fun q h past => none q h (by omega)
  | case4 fuel start inside _ eog =>
    exact absurd (stopsAt_iff.mpr ⟨Nat.le_of_not_lt inside, rfl, .inl eog⟩) (none start _ (Nat.le_refl _))
  | case5 fuel start inside _ _ valid =>
    exact absurd (stopsAt_iff.mpr ⟨Nat.le_of_not_lt inside, rfl, .inr valid⟩) (none start _ (Nat.le_refl _))
  | case6 fuel start _ _ _ _ ih => exact ih fun q h past => none q h (by omega)

/-! ### Size recovery -/

/-- The loop of G.CALCSIZE does what the rule's relation says, if its fuel reaches the end of the buffer (log entry 12). -/
theorem recovers_scanSize {fuel count size : Nat} (reach : gsize < p + 5 + fuel) :
    Recovers pr m gsize n p count size (scanSize pr m gsize n fuel p count size) := by
  have header (q : Nat) : HeaderAt m q (probeHeader m q) := headerAt_desFH m q
  fun_induction scanSize pr m gsize n fuel p count size with
  | case1 p count size =>
    by_cases reached : count = n
    · subst reached
      exact .countPlain p size fun whole => by omega
    · exact .bufferEnd p count size reached (by omega)
  | case2 fuel p size sentinel => exact .countSentinel p size _ sentinel.1 (header p) (probeEog_iff.mp sentinel.2)
  | case3 fuel p size plain =>
    refine .countPlain p size ?_
    rintro ⟨inside, h, at_p, eog⟩
    exact plain ⟨inside, probeEog_iff.mpr ((headerAt_iff.mp at_p).symm ▸ eog)⟩
  | case4 fuel p count size more outside => exact .bufferEnd p count size more outside
  | case5 fuel p count size more inside noMagic ih =>
    exact .noMagic p count size _ more (Nat.le_of_not_lt inside) noMagic (ih (by omega))
  | case6 fuel p count size more inside _ eog =>
    exact .sentinel p count size _ more (Nat.le_of_not_lt inside) (header p) (probeEog_iff.mp eog)
  | case7 fuel p count size more inside _ noEog valid past ih =>
    have forward : p + 5 ≤ past := Nat.le_add_right _ _
    exact .frame p count size _ _ more (Nat.le_of_not_lt inside) (header p) (fun eog => noEog (probeEog_iff.mpr eog))
      (probeValid_iff.mp valid) (ih (by omega))
  | case8 fuel p count size more inside magic noEog invalid ih =>
    exact .falseMagic p count size _ _ more (Nat.le_of_not_lt inside) (not_not.mp magic) (header p)
      (fun eog => noEog (probeEog_iff.mpr eog)) (fun valid => invalid (probeValid_iff.mpr valid)) (ih (by omega))

/-- A recovered size is no less than the size on entry and ends inside the buffer. -/
theorem Recovers.bounds {count size r : Nat} (h : Recovers pr m gsize n p count size r) (le : size ≤ p)
    (inside : p ≤ gsize) :
    size ≤ r ∧ r ≤ gsize := by
  induction h with
  | countSentinel p size h room | sentinel p count size h _ room => omega
  | countPlain p size | bufferEnd p count size => omega
  | noMagic p count size r _ room _ _ ih | falseMagic p count size r h _ room _ _ _ _ _ ih =>
    exact ih (by omega) (by omega)
  | frame p count size r h _ room _ _ valid _ ih =>
    obtain ⟨-, fits, -⟩ := valid
    have := ih (Nat.le_refl _) (by omega)
    omega

/-! ### Chains of frames -/

theorem FrameChain.le (chain : FrameChain pr m p q n) : p ≤ q := by
  induction chain with
  | nil p => exact Nat.le_refl p
  | cons p q n h _ _ _ _ ih => omega

theorem HeaderAt.congr {m' : Memory} (same : ∀ x, p ≤ x → x < p + 5 → m'.readByte x = m.readByte x)
    (at_p : HeaderAt m p h) : HeaderAt m' p h := by
  rw [HeaderAt, Memory.readBytes_congr 5 p same]
  exact at_p

theorem ValidAt.congr {m' : Memory} {size : Nat}
    (same : ∀ x, p + 5 ≤ x → x < p + 5 + h.len.toNat → m'.readByte x = m.readByte x) (valid : ValidAt pr m h p size) :
    ValidAt pr m' h p size := by
  rw [ValidAt, wireFrameCrc, Memory.readBytes_congr h.len.toNat (p + 5) same]
  exact valid

/-- A chain is the bytes it spans. -/
theorem FrameChain.congr {m' : Memory} (chain : FrameChain pr m p q n)
    (same : ∀ x, p ≤ x → x < q → m'.readByte x = m.readByte x) : FrameChain pr m' p q n := by
  induction chain with
  | nil p => exact .nil p
  | cons p q n h at_p valid noEog rest ih =>
    have le := rest.le
    exact .cons p q n h (at_p.congr fun x lower upper => same x lower (by omega))
      (valid.congr fun x lower upper => same x (by omega) (by omega)) noEog
      (ih fun x lower upper => same x (by omega) upper)

/-- One turn of G.CALCSIZE's loop at a valid frame. -/
theorem scanSize_of_frame {fuel count size : Nat} (more : count ≠ n) (at_p : HeaderAt m p h) (noEog : ¬ EogHeader h)
    (valid : ValidAt pr m h p (5 + h.len.toNat)) (inside : p + 5 + h.len.toNat ≤ gsize) :
    scanSize pr m gsize n (fuel + 1) p count size =
      scanSize pr m gsize n fuel (p + 5 + h.len.toNat) (count + 1) (p + 5 + h.len.toNat) := by
  obtain rfl := headerAt_iff.mp at_p
  obtain ⟨magic, -, most, crc⟩ := valid
  have room : ¬ gsize < p + fhSize := by simp only [fhSize]; omega
  have noSentinel : ¬ probeEog m p = true := fun eog => noEog (probeEog_iff.mp eog)
  have probe : probeValid pr m gsize p = true := probeValid_iff.mpr ⟨magic, by omega, most, crc⟩
  rw [probeHeader_magic] at magic
  simp [scanSize, more, room, magic, noSentinel, probe]

/-- Past a chain that brings the count to its end, G.CALCSIZE's loop recovers the end of the sentinel. -/
theorem FrameChain.scanSize_eq {k : Nat} (chain : FrameChain pr m p q k) (sentinel : HeaderAt m q sentinelHeader)
    (inside : q + 5 ≤ gsize) :
    ∀ {fuel count size : Nat}, q < p + fuel → count + k = n → scanSize pr m gsize n fuel p count size = q + 5 := by
  induction chain with
  | nil p =>
    intro fuel count size reach total
    obtain ⟨fuel, rfl⟩ : ∃ f, fuel = f + 1 := ⟨fuel - 1, by omega⟩
    have eog : probeEog m p = true := by rw [probeEog, headerAt_iff.mp sentinel]; rfl
    subst total
    simp [scanSize, eog, inside]
  | cons p q k h at_p valid noEog rest ih =>
    intro fuel count size reach total
    have le := rest.le
    obtain ⟨fuel, rfl⟩ : ∃ f, fuel = f + 1 := ⟨fuel - 1, by omega⟩
    rw [scanSize_of_frame (by omega) at_p noEog valid (by omega)]
    exact ih sentinel inside (by omega) (by omega)

end Sys2Proof.Machine
end

section
/-! PROOFS. G.NEXT, G.CALCSIZE and the accounting of a group (43_group.md rules R184, R185 and R187). -/

namespace Sys2Proof.Machine

variable {s : State} {p : Nat} {h : FrameHeader}

/-! ### G.NEXT -/

theorem ScanStart.scanStart_eq {start : Nat} (from_start : ScanStart s start) : scanStart s s.viewValid = start := by
  obtain ⟨valid, rfl⟩ | ⟨invalid, rfl⟩ := from_start
  · rw [viewValid_iff.mpr valid]
    rfl
  · rw [Bool.eq_false_iff.mpr fun e => invalid (viewValid_iff.mp e)]
    rfl

/-- The scan of G.NEXT starts past the frame cursor. -/
theorem ScanStart.fc_lt {start : Nat} (from_start : ScanStart s start) : s.grp.fc.toNat < start := by
  obtain ⟨-, rfl⟩ | ⟨-, rfl⟩ := from_start <;> omega

theorem nextStop_of_first {start : Nat} (from_start : ScanStart s start) (le : start ≤ p)
    (stop : StopsAt s.params s.mem s.grp.size.toNat p h)
    (first : ∀ q h', start ≤ q → q < p → ¬ StopsAt s.params s.mem s.grp.size.toNat q h') :
    nextStop s s.viewValid = stopOf h p := by
  have inside := stop.1
  rw [nextStop, from_start.scanStart_eq]
  exact scanNext_of_first stop le (by omega) first

/-- How G.NEXT ends where its scan stops at a header: the frame is bound there, and the sentinel's header alone answers
NOFRAME. -/
theorem afterScan_stopOf (s : State) (h : FrameHeader) (p : Nat) :
    ∃ st res, s.afterScan (stopOf h p) = finish st res (bindCurrent p modeRead s) ∧
      (EogHeader h → st = .noFrame ∧ res = 0#32) ∧ (¬ EogHeader h → st = .ok ∧ res = 1#32) := by
  by_cases eog : EogHeader h
  · refine ⟨.noFrame, 0#32, ?_, fun _ => ⟨rfl, rfl⟩, absurd eog⟩
    rw [stopOf, if_pos (isEog_iff.mpr eog)]
    rfl
  · refine ⟨.ok, 1#32, ?_, fun e => absurd e eog, fun _ => ⟨rfl, rfl⟩⟩
    rw [stopOf, if_neg fun e => eog (isEog_iff.mp e)]
    rfl

/-- Settles O43: the scan stops there, and the header bound there is the probed one. -/
theorem gNextFindsTheFirstStop : Obligations.GNextFindsTheFirstStop := by
  intro s start p h inv read from_start le stop first
  obtain ⟨st, res, ended, sentinel, frame⟩ := afterScan_stopOf s h p
  have ends : execGNext s = .next ((bindCurrent p modeRead s).finished st res) := by
    rw [inv.execGNext read, nextStop_of_first from_start le stop first, ended]
    rfl
  obtain ⟨inside, header, -⟩ := stopsAt_iff.mp stop
  refine ⟨_, ends, ?_, bindCurrent_fc_toNat modeRead (by omega), bindCurrent_size_toNat s p modeRead,
    fun eog => ?_, fun noEog => ?_⟩
  · subst header
    cases s
    rfl
  · obtain ⟨rfl, rfl⟩ := sentinel eog
    exact ⟨rfl, rfl⟩
  · obtain ⟨rfl, rfl⟩ := frame noEog
    exact ⟨rfl, rfl⟩

/-- Settles O44: the scan meets the end of the buffer. -/
theorem gNextEndsAtTheBufferEnd : Obligations.GNextEndsAtTheBufferEnd := by
  intro s start inv read from_start none
  have stop : nextStop s s.viewValid = .bufferEnd := by
    rw [nextStop, from_start.scanStart_eq]
    exact scanNext_of_none none
  exact (inv.execGNext read).trans (congrArg s.afterScan stop)

/-! ### G.CALCSIZE -/

/-- RESULT holds a size of M. -/
theorem toNat_natResult_of_le {n : Nat} {w : BitVec 16} (le : n ≤ w.toNat) : (natResult n).toNat = n :=
  toNat_natResult (by omega)

theorem recoveredSize_of_valid (valid : ValidGroupHeader s.params s.gh) :
    recoveredSize s =
      scanSize s.params s.mem s.grp.size.toNat s.gh.numFrames.toNat s.grp.size.toNat ghSize 0 ghSize :=
  if_pos (groupHeaderValid_iff.mpr valid)

theorem recoveredSize_of_invalid (invalid : ¬ ValidGroupHeader s.params s.gh) : recoveredSize s = 0 :=
  if_neg fun e => invalid (groupHeaderValid_iff.mp e)

/-- Settles O47: the loop's result, which fits RESULT because it lies in the group's buffer. -/
theorem gCalcsizeRecoversTheSize : Obligations.GCalcsizeRecoversTheSize := by
  intro s inv opened
  refine ⟨natResult (recoveredSize s), execGCalcsize_of_group opened, fun invalid => ?_, fun valid => ?_⟩
  · rw [recoveredSize_of_invalid invalid]
    rfl
  · obtain ⟨past, room⟩ := inv.sentinel_room (ne_of_mem_of_not_mem opened (by decide))
    have recovers : Recovers s.params s.mem s.grp.size.toNat s.gh.numFrames.toNat 13 0 13 (recoveredSize s) := by
      rw [recoveredSize_of_valid valid]
      exact recovers_scanSize (by omega)
    have bounds := recovers.bounds (Nat.le_refl 13) (by omega)
    rw [toNat_natResult_of_le bounds.2]
    exact ⟨recovers, bounds⟩

/-! ### Accounting -/

/-- G.TRAILER stores outside the committed frames. -/
theorem Inv.frameChain_trailed (inv : Inv s) (write : s.grp.mode = groupWrite) {n : Nat}
    (chain : FrameChain s.params s.mem 13 s.grp.fc.toNat n) :
    FrameChain s.params s.trailed.mem 13 s.grp.fc.toNat n :=
  chain.congr fun x lower upper => by
    rw [inv.readByte_trailed write, if_neg (by omega), if_neg (by omega)]

/-- G.TRAILER's group header at 0 lies before the sentinel at the frame cursor. -/
theorem Inv.headerAt_sentinel_trailed (inv : Inv s) (write : s.grp.mode = groupWrite) :
    HeaderAt s.trailed.mem s.grp.fc.toNat sentinelHeader := by
  obtain ⟨past, -⟩ := inv.sentinel_room (by rw [write]; decide)
  have length : (serFH sentinelHeader).length = 5 := length_serFH _
  have stored := Memory.readBytes_writeBytes inv.mem (bs := serFH sentinelHeader)
    (length.symm ▸ inv.sentinel_le (by rw [write]; decide))
  rw [length] at stored
  have kept : s.trailed.mem.readBytes s.grp.fc.toNat 5 = serFH sentinelHeader := by
    rw [← stored]
    exact Memory.readBytes_congr 5 _ fun x lower _ =>
      Memory.readByte_writeBytes_outside (Memory.wf_writeBytes _ inv.mem _) (groupHeader_le _)
        (.inr (by rw [length_serGH]; simp only [ghSize]; omega))
  rw [HeaderAt, kept, serFH_eq_wireFrameHeader]

/-- Settles O59: the loop runs along the committed frames to the sentinel. -/
theorem groupAccounting : Obligations.GroupAccounting := by
  intro s t n inv write count chain ht
  obtain rfl : s.trailed = t := by injection (inv.execGTrailer write).symm.trans ht
  obtain ⟨past, room⟩ := inv.sentinel_room (by rw [write]; decide)
  have size : recoveredSize s.trailed = s.grp.fc.toNat + 5 := by
    rw [recoveredSize_of_valid (groupHeaderValid_iff.mp (groupHeaderValid_trailerHeader s))]
    have reach : s.grp.fc.toNat < 13 + s.grp.size.toNat := by omega
    exact (inv.frameChain_trailed write chain).scanSize_eq (inv.headerAt_sentinel_trailed write) room reach
      ((Nat.zero_add n).trans count.symm)
  refine ⟨count, ?_⟩
  rw [← size]
  exact execGCalcsize_of_group (List.mem_of_mem_tail (List.mem_singleton.mpr write))

end Sys2Proof.Machine
end

section
/-! PROOFS. How a command fails (60_exceptions.md): the completion code and RESULT of each ending (rule R220), and the order of
the checks of the payload accesses and of stuffing (rule R225). -/

namespace Sys2Proof.Machine

variable {s : State} {i : Instr} {width : BitVec 8}

/-! ### The table of completion codes -/

/-- Settles O22: `unchanged` carries its row of the table, G.NEXT at the sentinel ends NOFRAME, and all other endings are OK. -/
theorem completionCodesFollowTheTable : Obligations.CompletionCodesFollowTheTable := by
  intro s t i ht
  cases exec_ends ht with
  | @unchanged _ st _ raised result => exact ⟨st, rfl, raised, result⟩
  | gNextSentinel => exact ⟨.noFrame, rfl, rfl, fun _ => rfl⟩
  | _ => exact ⟨.ok, rfl, rfl, absurd rfl⟩

/-! ### Payload access and F.WRHDR -/

/-- The write capability is bit 1 of FV_MODE (10_state.md rule R31). -/
theorem canWrite_eq_getLsbD (s : State) : s.canWrite = s.fv.mode.getLsbD 1 := by
  have bit : ∀ mode : BitVec 2, (mode &&& 2#2 != 0#2) = mode.getLsbD 1 := by decide
  exact bit _

/-- The read capability is bit 0 of FV_MODE (10_state.md rule R31). -/
theorem canRead_eq_getLsbD (s : State) : s.canRead = s.fv.mode.getLsbD 0 := by
  have bit : ∀ mode : BitVec 2, (mode &&& 1#2 != 0#2) = mode.getLsbD 0 := by decide
  exact bit _

theorem hasRoom_eq_false {w : Nat} (full : s.fv.size.toNat < 5 + s.fv.cursor.toNat + w) : s.hasRoom w = false :=
  Bool.eq_false_iff.mpr fun room => Nat.not_le_of_lt full (hasRoom_iff.mp room)

theorem execFWrdata_of_not_writable (bound : s.fv.bound = 1#1) (readOnly : s.canWrite = false) :
    execFWrdata width s = fail .errCapability s := by
  rw [execFWrdata, whenBound_of_bound bound, readOnly]
  rfl

theorem execFRddata_of_not_readable (bound : s.fv.bound = 1#1) (writeOnly : s.canRead = false) :
    execFRddata width s = fail .errCapability s := by
  rw [execFRddata, whenBound_of_bound bound, writeOnly]
  rfl

theorem execFWrdata_of_full (bound : s.fv.bound = 1#1) (write : s.canWrite = true)
    (full : s.hasRoom width.toNat = false) : execFWrdata width s = fail .errBounds s := by
  rw [execFWrdata, whenBound_of_bound bound, write, full]
  rfl

theorem execFRddata_of_full (bound : s.fv.bound = 1#1) (read : s.canRead = true)
    (full : s.hasRoom width.toNat = false) : execFRddata width s = fail .errBounds s := by
  rw [execFRddata, whenBound_of_bound bound, read, full]
  rfl

theorem execFWrhdr_of_long (bound : s.fv.bound = 1#1) (long : maxPayload < s.fv.cursor.toNat) (id : BitVec 7) :
    execFWrhdr id s = fail .errBounds s := by
  rw [execFWrhdr, whenBound_of_bound bound, if_pos long]

/-- Settles O29: the unbound check of each command, then the check that fails, those before it met. -/
theorem payloadAccessFailuresInOrder : Obligations.PayloadAccessFailuresInOrder := by
  intro s w id
  refine ⟨fun unbound i mem => ?_, fun bound mode => ?_, fun bound mode => ?_, fun bound mode full => ?_,
    fun bound mode full => ?_, fun bound long => execFWrhdr_of_long bound long id⟩
  · have checks : ∀ i ∈ [Instr.fWrdata w, .fRddata w, .fWrhdr id], checksBound i = true := by simp [checksBound]
    exact exec_of_unbound (checks i mem) unbound
  · exact execFWrdata_of_not_writable bound ((canWrite_eq_getLsbD s).trans mode)
  · exact execFRddata_of_not_readable bound ((canRead_eq_getLsbD s).trans mode)
  · exact execFWrdata_of_full bound ((canWrite_eq_getLsbD s).trans mode) (hasRoom_eq_false full)
  · exact execFRddata_of_full bound ((canRead_eq_getLsbD s).trans mode) (hasRoom_eq_false full)

/-! ### Stuffing -/

theorem avoidOk_eq_false (bad : s.avoidLen.toNat < 2 ∨ 16 < s.avoidLen.toNat) : s.avoidOk = false :=
  Bool.eq_false_iff.mpr fun avoid => by
    obtain ⟨least, most⟩ := avoidOk_iff.mp avoid
    omega

/-- A bad avoid sequence fails both commands alike, before M is looked at (42_stuffing.md rule R160). -/
theorem exec_of_not_avoidOk (stuffing : i ∈ [Instr.fStuff, .fDestuff]) (bound : s.fv.bound = 1#1)
    (bad : s.avoidOk = false) : exec i s = finish .errStuff minusOne s := by
  obtain rfl | rfl : i = .fStuff ∨ i = .fDestuff := by simpa using stuffing
  · change execFStuff s = _
    rw [execFStuff_eq, whenBound_of_bound bound, bad]
    rfl
  · change execFDestuff s = _
    rw [execFDestuff, whenBound_of_bound bound, bad]
    rfl

theorem Inv.execFStuff_of_overflow (inv : Inv s) (bound : s.fv.bound = 1#1) (avoid : s.avoidOk = true)
    (overflow : s.hasRoom s.stuffedPayload.2 = false) : execFStuff s = finish .errStuff minusOne s := by
  have long := Nat.lt_of_not_le fun fits => Bool.eq_false_iff.mp overflow (hasRoom_iff_fits.mpr fits)
  rw [execFStuff_eq, whenBound_of_bound bound, avoid, access_of_le (inv.le_of_covers bound (inv.covers_writtenPayload bound)),
    if_pos long]
  rfl

theorem Inv.execFDestuff_of_invalid (inv : Inv s) (bound : s.fv.bound = 1#1) (avoid : s.avoidOk = true)
    (invalid : ¬ ValidView s) : execFDestuff s = finish .errPrecond minusOne s := by
  rw [execFDestuff, whenBound_of_bound bound, avoid, withViewValid_of_view (inv.view_le bound),
    Bool.eq_false_iff.mpr fun valid => invalid (viewValid_iff.mp valid)]
  rfl

theorem Inv.execFDestuff_of_malformed (inv : Inv s) (bound : s.fv.bound = 1#1) (avoid : s.avoidOk = true)
    (valid : ValidView s)
    (malformed : destuffBytes s.avoidHead s.escapeByte (s.mem.readBytes s.payloadBase s.fh.len.toNat) = none) :
    execFDestuff s = finish .errStuff minusOne s := by
  rw [execFDestuff, whenBound_of_bound bound, avoid, withViewValid_of_view (inv.view_le bound), viewValid_iff.mpr valid,
    malformed]
  rfl

/-- A payload with no destuffed form is one that the scan finds malformed. -/
theorem destuffBytes_eq_none {p src : List Byte} {e : Byte} (head : p ≠ [])
    (malformed : ¬ ∃ out r, Destuffed p e src out r) : destuffBytes p e src = none :=
  Option.eq_none_iff_forall_ne_some.mpr fun (out, r) scanned => malformed ⟨out, r, (destuffed_iff head).mpr scanned⟩

/-- Settles O38: each failing check, those before it met; the scans answer what the relations say. -/
theorem stuffingFailuresInOrder : Obligations.StuffingFailuresInOrder := by
  intro s
  refine ⟨fun unbound i mem => ?_, fun bound bad i mem => exec_of_not_avoidOk mem bound (avoidOk_eq_false bad),
    fun inv bound least most => ?_⟩
  · have checks : ∀ i ∈ [Instr.fStuff, .fDestuff], checksBound i = true := by decide
    exact exec_of_unbound (checks i mem) unbound
  · have avoid : s.avoidOk = true := avoidOk_iff.mpr ⟨least, most⟩
    have head := avoidHead_ne_nil avoid
    refine ⟨fun out k stuffed overflow => ?_, inv.execFDestuff_of_invalid bound avoid,
      fun valid malformed => inv.execFDestuff_of_malformed bound avoid valid (destuffBytes_eq_none head malformed)⟩
    have scanned : s.stuffedPayload = (out, k) := (stuffed_iff head).mp stuffed
    refine inv.execFStuff_of_overflow bound avoid (hasRoom_eq_false ?_)
    rw [scanned]
    exact overflow

end Sys2Proof.Machine
end

section
/-! PROOFS. Reset and what a step keeps (70_reset_and_hazards.md): what the reset transaction leaves (rule R240), the parameters
(rule R242), and the cached headers, which M's header bytes do not follow (rule R246). -/

namespace Sys2Proof.Machine

variable {s t : State} {i : Instr}

/-! ### Reset -/

/-- The reset transaction, in any state: State.reset's registers, with M, the parameters and the transactions still offered. -/
theorem step_of_reset {rest : List Transaction} (offered : s.inbox = .reset :: rest) :
    step s = .next { State.reset with mem := s.mem, params := s.params, inbox := rest } :=
  step_of_inbox offered

/-- Settles O10: each register of State.reset is 0, the sixteen of AVOID[] among them. -/
theorem resetZeroesRegistersAndKeepsMemory : Obligations.ResetZeroesRegistersAndKeepsMemory := by
  intro s rest offered
  exact ⟨_, step_of_reset offered, rfl, fun k => Vector.getElem_replicate k.isLt⟩

/-- Settles O11: what reset keeps of the state is what State.reset has there. -/
theorem powerOnIsTheResetState : Obligations.PowerOnIsTheResetState := by
  intro s offered mem params
  rw [step_of_reset offered, mem, params]
  rfl

/-! ### What a step can do -/

/-- A word written to CMD runs a command to one of its ends, or fails as illegal. -/
theorem issue_next {w : CommandWord} (ht : issue w s = .next t) :
    (∃ i, decode w = .ok i ∧ Ends s i t) ∨ t = s.finished .errIllegal 0#32 := by
  cases decoded : decode w with
  | ok i => exact .inl ⟨i, rfl, exec_ends (issue_of_decode decoded s ▸ ht)⟩
  | error e =>
    rw [issue_of_error decoded] at ht
    exact .inr (fail_next.mp ht)

/-- What a host transaction other than a command and reset leaves: every register that the host does not write, the parameters
and the transactions still offered. -/
structure HostWrites (s t : State) : Prop where
  cmd : t.cmd = s.cmd
  status : t.status = s.status
  result : t.result = s.result
  dataOut : t.dataOut = s.dataOut
  fv : t.fv = s.fv
  fh : t.fh = s.fh
  grp : t.grp = s.grp
  gh : t.gh = s.gh
  params : t.params = s.params
  inbox : t.inbox = s.inbox

theorem hostWrites_setReply (r : Reply) : HostWrites s (s.setReply r) := by
  constructor <;> rfl

theorem hostWrites_writeReg (num : RegNum) (v : BitVec 64) : HostWrites s (writeReg num v s) := by
  rw [writeReg_frame]
  constructor <;> rfl

theorem hostWrites_hostMemWrite (a : Nat) (bs : List Byte) : HostWrites s (hostMemWrite a bs s) := by
  rw [hostMemWrite_frame]
  constructor <;> rfl

/-- A host transaction is reset, or it issues a command, or it writes what the host may write. -/
theorem hostPort_next {x : Transaction} (ht : hostPort x s = .next t) :
    (x = .reset ∧ t = resetBlock s) ∨
      (∃ w, x = .wr 0x00#8 w ∧ issue w (s.setCmd w) = .next t) ∨ HostWrites s t := by
  cases x with
  | reset =>
    cases ht
    exact .inl ⟨rfl, rfl⟩
  | wr num v =>
    by_cases cmd : num = 0x00#8
    · subst cmd
      exact .inr (.inl ⟨v, rfl, ht⟩)
    · rw [hostPort_wr_data cmd] at ht
      cases ht
      exact .inr (.inr (hostWrites_writeReg num v))
  | memWr a bs =>
    cases ht
    exact .inr (.inr (hostWrites_hostMemWrite a bs))
  | rd | memRd =>
    cases ht
    exact .inr (.inr (hostWrites_setReply _))

/-! ### The parameters -/

theorem Ends.params_eq (h : Ends s i t) : t.params = s.params := by
  cases h <;> simp

theorem issue_params {w : CommandWord} (ht : issue w s = .next t) : t.params = s.params := by
  obtain ⟨i, -, h⟩ | rfl := issue_next ht
  · exact h.params_eq
  · rfl

/-- Settles O17: no end of a command and no host transaction writes them. -/
theorem parametersNeverChange : Obligations.ParametersNeverChange := by
  intro s t ht
  obtain ⟨-, rfl⟩ | ⟨x, rest, -, hx⟩ := step_next ht
  · rfl
  · obtain ⟨-, rfl⟩ | ⟨w, -, issued⟩ | written := hostPort_next hx
    · rfl
    · exact issue_params (s := (s.accept rest).setCmd w) issued
    · exact written.params

/-! ### The cached headers -/

/-- Settles O19: over the ways a command can end, and over the host's transactions. -/
theorem cachedHeadersChangeOnlyByTheirCommands : Obligations.CachedHeadersChangeOnlyByTheirCommands := by
  refine ⟨fun s t i ht => ?_, fun s t x rest offered notReset notCommand ht => ?_⟩
  · have h := exec_ends ht
    exact ⟨h.fh_eq, fun openw openr trailer => h.gh_eq (opensGroup_eq_false openw openr) trailer⟩
  · rw [step_of_inbox offered] at ht
    obtain ⟨reset, -⟩ | ⟨w, command, -⟩ | written := hostPort_next ht
    · exact absurd reset notReset
    · exact absurd command (notCommand w)
    · exact ⟨written.fh, written.gh⟩

/-! ### The header bytes in M -/

/-- Valid(FV) reads M from the payload on, and takes the header from the cache (40_fields_crc.md rule R109). -/
theorem viewValid_setMem {m : Memory} (payload : ∀ x, s.payloadBase ≤ x → m.readByte x = s.mem.readByte x) :
    (s.setMem m).viewValid = s.viewValid := by
  have same : m.readBytes (s.fv.base.toNat + fhSize) s.fh.len.toNat =
      s.mem.readBytes (s.fv.base.toNat + fhSize) s.fh.len.toNat :=
    Memory.readBytes_congr _ _ fun x past _ => payload x past
  simp [State.viewValid, frameValid, frameCrc, same]

/-- The answer of the three queries of the cached header, in RESULT (41_frame.md rules R136 to R138). -/
def headerAnswer (i : Instr) (s : State) : BitVec 32 :=
  match i with
  | .fIsvalid => boolResult s.viewValid
  | .fIseog => boolResult (isEog s.fh)
  | _ => natResult (if s.viewValid then fhSize + s.fh.len.toNat else 0)

theorem exec_headerQuery (query : i ∈ [Instr.fIsvalid, .fIseog, .fMsgsize]) (inv : Inv s) (bound : s.fv.bound = 1#1) :
    exec i s = finish .ok (headerAnswer i s) s := by
  obtain rfl | rfl | rfl : i = .fIsvalid ∨ i = .fIseog ∨ i = .fMsgsize := by simpa using query
  · exact execFIsvalid_of_view bound (inv.view_le bound)
  · exact whenBound_of_bound bound
  · exact execFMsgsize_of_view bound (inv.view_le bound)

/-- Of the block, the answer takes Valid(FV) and the cached header. -/
theorem headerAnswer_congr (valid : t.viewValid = s.viewValid) (fh : t.fh = s.fh) (i : Instr) :
    headerAnswer i t = headerAnswer i s := by
  simp only [headerAnswer, valid, fh]

/-- Settles O54: the write leaves the payload's bytes and the cached header, so Valid(FV) too, and the answers take nothing
else. -/
theorem headerBytesInMDoNotChangeTheAnswer : Obligations.HeaderBytesInMDoNotChangeTheAnswer := by
  intro s t a bs rest inv bound offered _ upper ht i query
  have inv' : Inv t := stepKeepsInvariant s t inv ht
  obtain rfl : hostMemWrite a bs (s.accept rest) = t := by injection (step_of_inbox offered).symm.trans ht
  have inside : a + bs.length ≤ memSize := by
    obtain ⟨-, header, -⟩ := inv.view bound
    have := inv.view_le bound
    omega
  rw [hostMemWrite_of_le inside] at inv' ⊢
  have valid : ((s.accept rest).setMem (s.mem.writeBytes a bs)).viewValid = s.viewValid :=
    viewValid_setMem (s := s.accept rest) fun x past =>
      Memory.readByte_writeBytes_outside inv.mem inside (.inr (upper.trans past))
  refine ⟨headerAnswer i s, exec_headerQuery query inv bound, ?_⟩
  rw [← headerAnswer_congr (t := (s.accept rest).setMem (s.mem.writeBytes a bs)) valid rfl i]
  exact exec_headerQuery query inv' bound

end Sys2Proof.Machine
end
